-- ==== Sys2Proof/Word.lean ====
section
/-! DEFINITION. The word types of NTCD and the fit of an integer in a two's-complement port. -/

namespace Sys2Proof

/-- A command byte: `BYTE_W` = 8 bits, read as 0 to 255 (00_scope.md R4, R7). -/
abbrev Byte := BitVec 8

/-- The integer `i` has a `w`-bit two's-complement pattern (`tc_w(i)` of 00_scope.md R8 is defined for it). -/
def fits (w : Nat) (i : Int) : Bool := (BitVec.ofInt w i).toInt == i

end Sys2Proof
end

