-- ==== Sys2Proof/Config.lean ====
section
/-! DEFINITION. The block's parameters (00_scope.md R4) and the free values the spec leaves open. -/

namespace Sys2Proof

/-- `MAP_DEGENERATE_SRC` (00_scope.md R4): the treatment of MAPR with `value = srcMin = srcMax`, whose result
43_range_mapper.md R62 leaves unspecified. The spec admits these two (D14, U4). -/
inductive DegenerateSrc where
  /-- The request has no meaning: the spec's recommendation. -/
  | refuse
  /-- Any integer is the result: what the spec accepts. -/
  | anyValue
deriving DecidableEq, Repr

/-- The OPEN elaboration-time parameters of 00_scope.md R4: fixed before the block exists and not changeable by
the host (10_state.md R13). -/
structure Params where
  /-- `HAS_MAPPER`: whether U-MAP is instantiated (D10). -/
  hasMapper : Bool
  /-- `MAP_W`: the width of the mapper's ports (D11). -/
  mapW : Nat
  /-- `MAP_DEGENERATE_SRC`: how the operation layer treats MAPR's degenerate request (D14). -/
  degenerateSrc : DegenerateSrc
deriving DecidableEq, Repr

/-- The spec's defaults for the OPEN parameters: `HAS_MAPPER` true, `MAP_W` 16 (00_scope.md R4). `MAP_DEGENERATE_SRC` has
no default there; `anyValue` is a DESIGN CHOICE, so that the operation completes: log 6. -/
def Params.default : Params := ⟨true, 16, .anyValue⟩

/-- A binary floating-point format: `precision` significand bits, exponents of normal numbers from `minExp` to
`maxExp` (the format `F` of 43_range_mapper.md R65, which the source does not name). -/
structure FloatFormat where
  precision : Nat
  minExp : Int
  maxExp : Int
deriving DecidableEq, Repr

/-- IEEE 754 binary64 (93_implementation_defined.md G3). PRESUMED: log 12. -/
def FloatFormat.binary64 : FloatFormat := ⟨53, -1022, 1023⟩

/-- IEEE 754 binary32 (93_implementation_defined.md G3). PRESUMED: log 12. -/
def FloatFormat.binary32 : FloatFormat := ⟨24, -126, 127⟩

/-- `MAP_NUMERICS` (00_scope.md R4): how MAPR's quotient is computed. -/
inductive MapNumerics where
  /-- The exact rational quotient (43_range_mapper.md R59): what this hardware takes. -/
  | exact
  /-- The source's two floating divisions in the format `F` (43_range_mapper.md R65): the alternative. -/
  | float2 (F : FloatFormat)
deriving DecidableEq, Repr

/-- `MAP_ROUND` (00_scope.md R4): the integer conversion of MAPR's quotient. -/
inductive MapRound where
  /-- Toward zero (43_range_mapper.md R64): what this hardware takes. -/
  | trunc
  /-- Toward minus infinity: the reading that 90_conflicts.md C1 rejects. -/
  | floor
deriving DecidableEq, Repr

/-- Free value, by draw index: MAPR's result where 43_range_mapper.md R62 leaves it unspecified. Log 6. -/
opaque Config.freeMapResult : Nat → Int

/-- Free value, by width and draw index: the `mapped` port where 10_state.md R19 and 43_range_mapper.md R68 leave it
unspecified, or an input it depends on is undriven. Logs 7 and 8. -/
opaque Config.freeMapped : (w : Nat) → Nat → BitVec w

/-- Free value, by draw index: `out_of_range` while an input it depends on is undriven (70_reset_and_hazards.md R80).
Log 8. -/
opaque Config.freeOutOfRange : Nat → Bool

/-- Free value, by draw index: `is_clockwise` while `byte1` is undriven (70_reset_and_hazards.md R80). Log 8. -/
opaque Config.freeIsClockwise : Nat → Bool

/-- Free value, by draw index: `is_firing` while `byte1` is undriven (70_reset_and_hazards.md R80). Log 8. -/
opaque Config.freeIsFiring : Nat → Bool

/-- Free value, by draw index: `speed` while `byte1` is undriven (70_reset_and_hazards.md R80). Log 8. -/
opaque Config.freeSpeed : Nat → BitVec 4

/-- Free value, by draw index: `azimuth` while `byte0` is undriven (70_reset_and_hazards.md R80). Log 8. -/
opaque Config.freeAzimuth : Nat → BitVec 9

end Sys2Proof
end

