-- ==== Sys2Proof/Syntax.lean ====
section
/-! DEFINITION. The instructions of NTCD: its four operations, with the fields of spec/opcode_table.json. -/

namespace Sys2Proof

/-- One operation with its operands (00_scope.md R5; formats: 30_encoding.md R30 to R34). Every field of the opcode
table is a field here, the ignored ones too. -/
inductive Instr where
  /-- DBASE, format B (30_encoding.md R31): `cw` bit 7, `fire` bit 6, `reserved` bits 5:4, `speed` bits 3:0. -/
  | dbase (cw fire : Bool) (reserved : BitVec 2) (speed : BitVec 4)
  /-- DAZIM, format A (30_encoding.md R32): one unsigned field `raw`. -/
  | dazim (raw : Byte)
  /-- DCMD, format C (30_encoding.md R33): `raw` is byte0, the rest byte1 in format B. -/
  | dcmd (raw : Byte) (cw fire : Bool) (reserved : BitVec 2) (speed : BitVec 4)
  /-- MAPR, format M (30_encoding.md R34): five unbounded integers, in this order. -/
  | mapr (value srcMin srcMax dstMin dstMax : Int)
deriving DecidableEq, Repr

end Sys2Proof
end

