-- ==== Sys2Proof/Decode.lean ====
section
/-! DEFINITION. From what the host hands over to an instruction and back: the requests, the decoder, the encoder,
the two-byte string notation and the opcode table's numbering. -/

namespace Sys2Proof

/-- One call of the host (00_scope.md R5): the operation it selects and the operands it hands over. No bit of a byte
selects the operation (30_encoding.md R36), so the host's choice is part of the request. The bytes stand in the order
of the source's list, `byte0` first (20_memory.md R22). -/
inductive Request where
  | decodeBase (bytes : List Byte)
  | decodeAzimuth (bytes : List Byte)
  | decodeCommand (bytes : List Byte)
  | mapRange (value srcMin srcMax dstMin dstMax : Int)
deriving DecidableEq, Repr

/-- Why the decoder reads no instruction from a request. -/
inductive DecodeError where
  /-- A decode operation was handed `given` bytes and takes `needed` (20_memory.md R24, D9, U2). Log 13. -/
  | wrongLength (needed given : Nat)
deriving DecidableEq, Repr

/-! ## Bit fields -/

/-- `(byte >> i) & 1 != 0` (00_scope.md R7, 30_encoding.md R35). -/
def bitSet (b : Byte) (i : Nat) : Bool := ((b >>> i) &&& 1#8) != 0#8

/-- `byte & 0b1111`, as the 4 bits it is (30_encoding.md R35). -/
def lowNibble (b : Byte) : BitVec 4 := (b &&& 0b1111#8).setWidth 4

/-- `byte[5:4]`, the reserved bits (30_encoding.md R31). -/
def reservedBits (b : Byte) : BitVec 2 := ((b >>> 4) &&& 0b11#8).setWidth 2

/-! ## The decoder -/

/-- A base byte split by format B, `cfrrssss` (30_encoding.md R31). -/
def readBase (b : Byte) : Instr := .dbase (bitSet b 7) (bitSet b 6) (reservedBits b) (lowNibble b)

/-- An azimuth byte, format A (30_encoding.md R32). -/
def readAzimuth (b : Byte) : Instr := .dazim b

/-- A frame `[b0, b1]`, format C: `b0` in format A and `b1` in format B (30_encoding.md R33). -/
def readCommand (b0 b1 : Byte) : Instr := .dcmd b0 (bitSet b1 7) (bitSet b1 6) (reservedBits b1) (lowNibble b1)

/-- The decoder: route by the host's choice, then split by the row's fields (30_encoding.md R36). Total on every
request. A number of bytes that is not the operation's is rejected by name, since the operand type admits only the
exact length (20_memory.md R24, 42_decode_command.md R53). -/
def decode : Request → Except DecodeError Instr
  | .decodeBase [b] => .ok (readBase b)
  | .decodeBase bs => .error (.wrongLength 1 bs.length)
  | .decodeAzimuth [b] => .ok (readAzimuth b)
  | .decodeAzimuth bs => .error (.wrongLength 1 bs.length)
  | .decodeCommand [b0, b1] => .ok (readCommand b0 b1)
  | .decodeCommand bs => .error (.wrongLength 2 bs.length)
  | .mapRange v a b c d => .ok (.mapr v a b c d)

/-! ## The encoder -/

/-- The byte of format B with the given fields: `cw ∥ fire ∥ reserved ∥ speed` (30_encoding.md R31). -/
def baseByte (cw fire : Bool) (reserved : BitVec 2) (speed : BitVec 4) : Byte :=
  BitVec.ofBool cw ++ BitVec.ofBool fire ++ reserved ++ speed

/-- The request whose decoding is the instruction. It writes an instruction's own operand bytes down; it is no unit
of the block, which has no encoder from settings to bytes (00_scope.md R3, 40_decode_base.md R42). -/
def encode : Instr → Request
  | .dbase cw fire r s => .decodeBase [baseByte cw fire r s]
  | .dazim raw => .decodeAzimuth [raw]
  | .dcmd raw cw fire r s => .decodeCommand [raw, baseByte cw fire r s]
  | .mapr v a b c d => .mapRange v a b c d

/-- The request carries the number of bytes its operation takes (30_encoding.md R30). -/
def Request.exactLength : Request → Bool
  | .decodeBase bs => bs.length == 1
  | .decodeAzimuth bs => bs.length == 1
  | .decodeCommand bs => bs.length == 2
  | .mapRange _ _ _ _ _ => true

/-! ## A frame as one 16-bit string: notation only (20_memory.md R23, D8) -/

/-- `byte0 ∥ byte1`, `byte0` in bits 15 to 8: the pattern `aaaaaaaacfrrssss` (30_encoding.md R33). -/
def frameString (b0 b1 : Byte) : BitVec 16 := b0 ++ b1

/-- The frame that a 16-bit string in the notation of D8 stands for. -/
def frameOfString (x : BitVec 16) : Request := .decodeCommand [x.extractLsb' 8 8, x.extractLsb' 0 8]

/-! ## The opcode table's rows as numbers -/

/-- The request a word of `nbits` bits stands for when nothing but the word is given. No bit selects an operation
(30_encoding.md R36), so `nbits` decides. 16 bits are a frame in the table's numbering, `byte0` in bits 15..8 (R33, D8:
log 5). DESIGN CHOICE, log 4: 8 bits are a base byte and never an azimuth byte, no bits are MAPR with all operands zero,
and every other number of bits is a frame with no byte, which the decoder rejects as of the wrong length (R24, R30). -/
def tableRequest (nbits w : Nat) : Request :=
  match nbits with
  | 0 => .mapRange 0 0 0 0 0
  | 8 => .decodeBase [BitVec.ofNat 8 w]
  | 16 => frameOfString (BitVec.ofNat 16 w)
  | _ => .decodeCommand []

/-- The instruction the decoder reads from a table word. -/
def decodeTableWord (nbits w : Nat) : Option Instr := (decode (tableRequest nbits w)).toOption

end Sys2Proof
end

