-- ==== Sys2Proof/Machine/State.lean ====
section
/-! DEFINITION. The values operations produce, the host's events, State, Fault, Refusal and the state after reset. -/

namespace Sys2Proof.Machine

/-! ## The data model (10_state.md R14 to R17) -/

/-- The settings of one base byte (10_state.md R14). -/
structure BaseSettings where
  isClockwise : Bool
  speed : Fin 16
  isFiring : Bool
deriving DecidableEq, Repr

/-- The settings of a frame: BaseSettings plus the azimuth (10_state.md R15). -/
structure TurretSettings where
  isClockwise : Bool
  speed : Fin 16
  isFiring : Bool
  azimuth : Int
deriving DecidableEq, Repr

/-- The tagged result of MAPR (43_range_mapper.md R66, 60_exceptions.md R70): one error, no code, no payload. -/
inductive MapResult where
  | ok (mapped : Int)
  | outOfRangeError
deriving DecidableEq, Repr

/-- The mapper's outputs as sampled (10_state.md R19): `mapped` is the port's pattern read as a signed number. -/
structure MapperSample where
  mapped : Int
  outOfRange : Bool
deriving DecidableEq, Repr

/-- All output ports as sampled at one instant (10_state.md R18, R19); no mapper outputs where there is no mapper. -/
structure PortSample where
  isClockwise : Bool
  isFiring : Bool
  speed : BitVec 4
  azimuth : BitVec 9
  mapper : Option MapperSample
deriving DecidableEq, Repr

/-- What one event hands to the host: the result of an operation, or a sample of the output ports. -/
inductive Delivery where
  | base (r : BaseSettings)
  | azimuth (a : Int)
  | settings (r : TurretSettings)
  | mapped (r : MapResult)
  | sample (r : PortSample)
deriving DecidableEq, Repr

/-! ## The host's side -/

/-- The five operand ports of the mapper (10_state.md R19). -/
inductive MapPort where
  | value
  | srcMin
  | srcMax
  | dstMin
  | dstMax
deriving DecidableEq, Repr

/-- What the host can do to the block (70_reset_and_hazards.md R89, 30_encoding.md R36): call an operation, put a level
on an input port or leave it undriven (`none`), sample the outputs. -/
inductive HostEvent where
  | call (r : Request)
  | driveByte0 (x : Option Byte)
  | driveByte1 (x : Option Byte)
  | driveMapper (port : MapPort) (x : Option Int)
  | sample
deriving DecidableEq, Repr

/-- The levels on the input ports (10_state.md R18, R19). `none`: undriven, or changing (70_reset_and_hazards.md R80,
R86, U8). A mapper port's level is the signed number its `MAP_W`-bit pattern stands for. -/
structure Ports where
  byte0 : Option Byte
  byte1 : Option Byte
  value : Option Int
  srcMin : Option Int
  srcMax : Option Int
  dstMin : Option Int
  dstMax : Option Int
deriving DecidableEq, Repr

/-- No input port driven. -/
def Ports.undriven : Ports := ⟨none, none, none, none, none, none, none⟩

/-! ## State -/

/-- The block itself holds nothing (10_state.md R10 to R13, 20_memory.md R20): State is what stands around it. Log 1. -/
structure State where
  /-- The instance's OPEN parameters (00_scope.md R4). No step changes them. -/
  params : Params
  /-- The levels on the input ports (10_state.md R18, R19). -/
  ports : Ports
  /-- The host's events still to come, first first: a run is the sequence the host issues (70_reset_and_hazards.md R88). -/
  pending : List HostEvent
  /-- What has been handed to the host, oldest first (00_scope.md R6). The host's, not the block's (10_state.md R17). -/
  delivered : List Delivery
  /-- The model's own: the index of the next free value. Log 6. -/
  draws : Nat
deriving DecidableEq, Repr

/-- No fault stops the block (00_scope.md section 8, 60_exceptions.md R71, R72): there is none. Log 22. -/
inductive Fault where
deriving DecidableEq, Repr

/-- Why an event is given no meaning. Each is safe: nothing can be proved of what follows it. -/
inductive Refusal where
  /-- exec's arm of an instruction without a meaning (no arm is one). Safe. -/
  | notModelled (mnemonic : String)
  /-- Raised by step where the decoder rejects a request: wrong number of bytes (20_memory.md R24, D9). Safe. Log 13. -/
  | malformedRequest (e : DecodeError)
  /-- Raised by MAPR, and by driving a mapper port, on an instance with no mapper: "the operation MAPR does not exist"
  (43_range_mapper.md, opening). Safe. Log 14. -/
  | mapperAbsent
  /-- Raised by MAPR with `value = srcMin = srcMax` on an instance whose `MAP_DEGENERATE_SRC` is `refuse`: "no meaning in
  the model" (D14). Safe. Log 6. -/
  | degenerateSource
  /-- Raised by driving a mapper port with a number that does not fit `MAP_W` bits: "Not presentable at the port layer"
  (D24). Safe. Log 15. -/
  | notPresentable (port : MapPort) (x : Int)
deriving DecidableEq, Repr

/-- Right after power-up: the spec's default parameters (00_scope.md R4), no port driven, nothing pending, nothing
delivered. There is no state to reset (70_reset_and_hazards.md R80, R81). DESIGN CHOICE: logs 6, 8, 9, 24. -/
def State.reset : State := ⟨Params.default, Ports.undriven, [], [], 0⟩

end Sys2Proof.Machine
end

