-- ==== Sys2Proof/Machine/Flags.lean ====
section
/-! DEFINITION. The one condition the block reports (10_state.md R12): out of range. It is kept nowhere. -/

namespace Sys2Proof.Machine

/-- Steps 1 and 2 of MAPR (43_range_mapper.md R56, R57): `value` lies outside the order-normalised source bounds. Both
bounds are inclusive, and the destination bounds play no part. -/
def outOfRange (value srcMin srcMax : Int) : Bool :=
  decide (value < min srcMin srcMax) || decide (max srcMin srcMax < value)

end Sys2Proof.Machine
end

