-- ==== Sys2Proof/Machine/Operands.lean ====
section
/-! DEFINITION. Operand assembly: the settings of the fields (30_encoding.md R35), the azimuth offset, integer
conversions (00_scope.md R8) and the hardware's choice of the mapper's numerics (00_scope.md R4). -/

namespace Sys2Proof.Machine

/-- `AZ_OFFSET` (00_scope.md R4, 41_decode_azimuth.md R49). -/
def azOffset : Int := 90

/-- `zext(byte) − 90` in unbounded arithmetic (30_encoding.md R35, 41_decode_azimuth.md R45). -/
def azimuthOf (raw : Byte) : Int := (raw.toNat : Int) - azOffset

/-- The 4 bits of `speed` as the unsigned magnitude 0 to 15 (30_encoding.md R35). -/
def speedOf (speed : BitVec 4) : Fin 16 := ⟨speed.toNat, speed.isLt⟩

/-- BaseSettings of the fields of format B; the reserved bits leave no trace (10_state.md R16, 30_encoding.md R37). -/
def baseSettingsOf (cw fire : Bool) (speed : BitVec 4) : BaseSettings := ⟨cw, speedOf speed, fire⟩

/-- `combine(a, {c, s, f})` (42_decode_command.md R51). -/
def combine (a : Int) (r : BaseSettings) : TurretSettings := ⟨r.isClockwise, r.speed, r.isFiring, a⟩

/-- `MAP_NUMERICS` of this hardware (00_scope.md R4, 43_range_mapper.md R59, D12). Log 10. -/
def hardwareNumerics : MapNumerics := .exact

/-- `MAP_ROUND` of this hardware (00_scope.md R4, D13, 90_conflicts.md C1). Log 11. -/
def hardwareRound : MapRound := .trunc

/-- The integer conversion of the quotient `n / d`, `d ≠ 0`: `tdiv` of 00_scope.md R8, or the floor. -/
def roundDiv : MapRound → Int → Int → Int
  | .trunc, n, d => n.tdiv d
  | .floor, n, d => n.fdiv d

end Sys2Proof.Machine
end

