-- ==== Sys2Proof/Machine/Ops.lean ====
section
/-! DEFINITION. The shared operations over State: delivering a result, raising the error, drawing a free value,
writing a port. -/

namespace Sys2Proof.Machine

/-- `result <- v` (00_scope.md R9): the result is handed to the immediate caller, and nothing else happens. -/
def State.deliver (s : State) (r : Delivery) : State := { s with delivered := s.delivered ++ [r] }

/-- `raise OutOfRangeError`, the whole of taking the block's one error (60_exceptions.md R70, R75): it is delivered as
the operation's result. No state is saved, no mode switched, no control transferred. There is no return from it, since
nothing was entered (R76). -/
def State.raiseOutOfRange (s : State) : State := s.deliver (.mapped .outOfRangeError)

/-- The draw index moves on past a free value. The model's own bookkeeping: log 6. -/
def State.advanceDraws (s : State) : State := { s with draws := s.draws + 1 }

/-- MAPR's unspecified result (43_range_mapper.md R62): a free value is delivered, and no error. Log 6. -/
def State.deliverFreeMapResult (s : State) : State :=
  (s.deliver (.mapped (.ok (Config.freeMapResult s.draws)))).advanceDraws

/-- A level put on one of the mapper's ports. -/
def Ports.setMapper (p : Ports) (port : MapPort) (x : Option Int) : Ports :=
  match port with
  | .value => { p with value := x }
  | .srcMin => { p with srcMin := x }
  | .srcMax => { p with srcMax := x }
  | .dstMin => { p with dstMin := x }
  | .dstMax => { p with dstMax := x }

/-- The level on one of the mapper's ports. -/
def Ports.mapper (p : Ports) : MapPort → Option Int
  | .value => p.value
  | .srcMin => p.srcMin
  | .srcMax => p.srcMax
  | .dstMin => p.dstMin
  | .dstMax => p.dstMax

end Sys2Proof.Machine
end

