-- ==== Sys2Proof/Machine/Decoder.lean ====
section
/-! DEFINITION. The decode operations DBASE, DAZIM, DCMD (40_decode_base.md, 41_decode_azimuth.md,
42_decode_command.md). -/

namespace Sys2Proof.Machine

/-- DBASE (40_decode_base.md R40). The reserved bits are read into nothing (R42). -/
def execDbase (cw fire : Bool) (_reserved : BitVec 2) (speed : BitVec 4) (s : State) :
    Host.Outcome State Fault Refusal :=
  .next (s.deliver (.base (baseSettingsOf cw fire speed)))

/-- DAZIM (41_decode_azimuth.md R45): neither clamped nor rejected (R47). -/
def execDazim (raw : Byte) (s : State) : Host.Outcome State Fault Refusal :=
  .next (s.deliver (.azimuth (azimuthOf raw)))

/-- DCMD (42_decode_command.md R50): U-AZ on byte0 and U-BASE on byte1, side by side. -/
def execDcmd (raw : Byte) (cw fire : Bool) (_reserved : BitVec 2) (speed : BitVec 4) (s : State) :
    Host.Outcome State Fault Refusal :=
  .next (s.deliver (.settings (combine (azimuthOf raw) (baseSettingsOf cw fire speed))))

end Sys2Proof.Machine
end

