-- ==== Sys2Proof/Machine/Float2.lean ====
section
/-! DEFINITION. The alternative numerics `float2(F)` of MAPR (43_range_mapper.md R65): the source's two floating
divisions in a format `F`. This hardware does not use it. -/

namespace Sys2Proof.Machine

/-- A floating value: not a number, an infinity, or the number `m · 2^e`. The sign of a zero is not kept: no result of
R65 depends on it. Log 12. -/
inductive FloatVal where
  | nan
  | inf (negative : Bool)
  | fin (m e : Int)
deriving DecidableEq, Repr

/-- The natural number nearest to `n / d`, ties to even. PRESUMED: log 12. -/
def roundHalfEven (n d : Nat) : Nat :=
  if 2 * (n % d) < d then n / d
  else if d < 2 * (n % d) then n / d + 1
  else if (n / d) % 2 = 0 then n / d
  else n / d + 1

/-- `2^k` for `0 ≤ k`, and 1 below: the factor that a scale by `2^k` puts on a numerator. -/
def pow2 (k : Int) : Nat := 2 ^ k.toNat

/-- The greatest `k` with `2^k ≤ n / d`, for positive `n` and `d`. -/
def floorLog2 (n d : Nat) : Int :=
  let k : Int := (n.log2 : Int) - (d.log2 : Int)
  if pow2 k * d ≤ pow2 (-k) * n then k else k - 1

/-- The value of the format nearest to `± n / d`: a normal number, a subnormal one, or an infinity on overflow. -/
def roundRatio (F : FloatFormat) (negative : Bool) (n d : Nat) : FloatVal :=
  if n = 0 then .fin 0 0
  else
    let e : Int := max (floorLog2 n d) F.minExp - ((F.precision : Int) - 1)
    let m : Nat := roundHalfEven (pow2 (-e) * n) (pow2 e * d)
    if m ≠ 0 ∧ F.maxExp < (m.log2 : Int) + e then .inf negative
    else .fin (if negative then -(m : Int) else m) e

/-- `fl`: the conversion from integers (R65). -/
def floatOfInt (F : FloatFormat) (z : Int) : FloatVal := roundRatio F (decide (z < 0)) z.natAbs 1

/-- `fdiv`: the correctly rounded division (R65); the special cases are IEEE 754's (93_implementation_defined.md G4).
PRESUMED: log 12. -/
def floatDiv (F : FloatFormat) : FloatVal → FloatVal → FloatVal
  | .nan, _ => .nan
  | _, .nan => .nan
  | .inf _, .inf _ => .nan
  | .inf s, .fin m _ => .inf (s != decide (m < 0))
  | .fin _ _, .inf _ => .fin 0 0
  | .fin m e, .fin m' e' =>
    if m' = 0 then (if m = 0 then .nan else .inf (decide (m < 0)))
    else roundRatio F (decide (m < 0) != decide (m' < 0)) (pow2 (e - e') * m.natAbs) (pow2 (e' - e) * m'.natAbs)

/-- The integer conversion of a finite value; none for a NaN or an infinity (R65: "unspecified"). -/
def FloatVal.toInt? (rnd : MapRound) : FloatVal → Option Int
  | .nan => none
  | .inf _ => none
  | .fin m e => some (roundDiv rnd (m * (pow2 e : Int)) (pow2 (-e) : Int))

/-- `scale` and `qf` of R65, and the integer conversion of `qf`. The integer differences are taken exactly, then
converted. -/
def float2Quotient (F : FloatFormat) (rnd : MapRound) (value srcMin srcMax dstMin dstMax : Int) : Option Int :=
  let scale := floatDiv F (floatOfInt F (srcMax - srcMin)) (floatOfInt F (dstMax - dstMin))
  (floatDiv F (floatOfInt F (value - srcMin)) scale).toInt? rnd

end Sys2Proof.Machine
end

