-- ==== Sys2Proof/Machine/Mapper.lean ====
section
/-! DEFINITION. The range mapper MAPR, operation layer (43_range_mapper.md R55 to R67). -/

namespace Sys2Proof.Machine

/-- What MAPR's operands come to. -/
inductive MapOutcome where
  /-- The error of 43_range_mapper.md R57. -/
  | raise
  /-- Accepted, with no specified result (43_range_mapper.md R62; R65 for a quotient that is not finite). -/
  | unspecified
  /-- The mapped integer. -/
  | value (z : Int)
deriving DecidableEq, Repr

/-- The quotient of step 3, converted to an integer; none where it is unspecified. `exact`: the product form `n / d` of
43_range_mapper.md R55 and R59, with no result for `d = 0` (R62). -/
def mapQuotient (num : MapNumerics) (rnd : MapRound) (value srcMin srcMax dstMin dstMax : Int) : Option Int :=
  match num with
  | .exact =>
    if srcMin = srcMax then none
    else some (roundDiv rnd ((value - srcMin) * (dstMax - dstMin)) (srcMax - srcMin))
  | .float2 F => float2Quotient F rnd value srcMin srcMax dstMin dstMax

/-- MAPR's contract under given numerics and rounding (43_range_mapper.md R55): the validation comes before any
arithmetic (R57, R74), and the bounds are used as given, in their given order (R56, R61). -/
def mapOutcomeWith (num : MapNumerics) (rnd : MapRound) (value srcMin srcMax dstMin dstMax : Int) : MapOutcome :=
  if outOfRange value srcMin srcMax then .raise
  else
    match mapQuotient num rnd value srcMin srcMax dstMin dstMax with
    | none => .unspecified
    | some q => .value (dstMin + q)

/-- MAPR's contract as this hardware computes it: `exact`, `trunc` (43_range_mapper.md R59, R64). -/
def mapOutcome (value srcMin srcMax dstMin dstMax : Int) : MapOutcome :=
  mapOutcomeWith hardwareNumerics hardwareRound value srcMin srcMax dstMin dstMax

/-- An accepted MAPR whose result is unspecified, as the instance's `MAP_DEGENERATE_SRC` treats it (43_range_mapper.md
R62, D14): a free value, or no meaning. -/
def State.deliverUnspecified (s : State) : Host.Outcome State Fault Refusal :=
  match s.params.degenerateSrc with
  | .anyValue => .next s.deliverFreeMapResult
  | .refuse => .refused .degenerateSource

/-- How MAPR ends, by what its operands come to. -/
def State.deliverMap (s : State) : MapOutcome → Host.Outcome State Fault Refusal
  | .raise => .next s.raiseOutOfRange
  | .unspecified => s.deliverUnspecified
  | .value z => .next (s.deliver (.mapped (.ok z)))

/-- MAPR (43_range_mapper.md R55). Without the unit U-MAP the operation does not exist. -/
def execMapr (value srcMin srcMax dstMin dstMax : Int) (s : State) : Host.Outcome State Fault Refusal :=
  if s.params.hasMapper then s.deliverMap (mapOutcome value srcMin srcMax dstMin dstMax)
  else .refused .mapperAbsent

end Sys2Proof.Machine
end

