-- ==== Sys2Proof/Machine/Dispatch.lean ====
section
/-! DEFINITION. exec: one arm per operation of the opcode table. -/

namespace Sys2Proof.Machine

def exec (i : Instr) (s : State) : Host.Outcome State Fault Refusal :=
  match i with
  | .dbase cw fire reserved speed => Sys2Proof.Machine.execDbase cw fire reserved speed s
  | .dazim raw => Sys2Proof.Machine.execDazim raw s
  | .dcmd raw cw fire reserved speed => Sys2Proof.Machine.execDcmd raw cw fire reserved speed s
  | .mapr value srcMin srcMax dstMin dstMax => Sys2Proof.Machine.execMapr value srcMin srcMax dstMin dstMax s

end Sys2Proof.Machine
end

