-- ==== Sys2Proof/Machine/Ports.lean ====
section
/-! DEFINITION. The port layer (10_state.md section 3): the outputs as functions of the input ports, and what the host
does at the ports. -/

namespace Sys2Proof.Machine

/-! ## The units -/

/-- `azimuth` of U-AZ: `tc_9(zext_9(b) − 90)` (41_decode_azimuth.md R48). -/
def azimuthPort (b : Byte) : BitVec 9 := b.setWidth 9 - BitVec.ofInt 9 azOffset

/-- The mapper's outputs at width `w`: `mapped` is none where 43_range_mapper.md R68 leaves it unspecified. -/
structure MapperOut (w : Nat) where
  mapped : Option (BitVec w)
  outOfRange : Bool
deriving DecidableEq, Repr

/-- Signed minimum and maximum of two patterns. -/
def sMin {w : Nat} (x y : BitVec w) : BitVec w := if x.sle y then x else y

/-- The other one. -/
def sMax {w : Nat} (x y : BitVec w) : BitVec w := if x.sle y then y else x

/-- `out_of_range` of U-MAP: two signed comparators (43_range_mapper.md R68). -/
def outOfRangePort {w : Nat} (value srcMin srcMax : BitVec w) : Bool :=
  value.slt (sMin srcMin srcMax) || (sMax srcMin srcMax).slt value

/-- The difference of two patterns at `MAP_W + 1` bits (43_range_mapper.md R68: `n1`, `dd`, `d`). -/
def wideSub {w : Nat} (x y : BitVec w) : BitVec (w + 1) := x.signExtend (w + 1) - y.signExtend (w + 1)

/-- `tc_MAP_W(dst_min + qt)` of 43_range_mapper.md R68, with the product and quotient at `2·MAP_W + 2` bits. -/
def mappedPort {w : Nat} (value srcMin srcMax dstMin dstMax : BitVec w) : BitVec w :=
  let n1 := wideSub value srcMin
  let dd := wideSub dstMax dstMin
  let d := wideSub srcMax srcMin
  let p := n1.signExtend (2 * w + 2) * dd.signExtend (2 * w + 2)
  let qt := p.sdiv (d.signExtend (2 * w + 2))
  (dstMin.signExtend (2 * w + 2) + qt).setWidth w

/-- The outputs of U-MAP (43_range_mapper.md R68). -/
def mapperOut {w : Nat} (value srcMin srcMax dstMin dstMax : BitVec w) : MapperOut w :=
  let oor := outOfRangePort value srcMin srcMax
  ⟨if oor || wideSub srcMax srcMin == 0 then none else some (mappedPort value srcMin srcMax dstMin dstMax), oor⟩

/-! ## The output ports

Each is, at all times, the stated function of the current input ports (10_state.md R18, R19). An output that depends on
an undriven input is a free value, and the others are unaffected (70_reset_and_hazards.md R80). `k` is the draw index of
the free values, `w` is `MAP_W`. -/

/-- `is_clockwise` <- `byte1[7]` (40_decode_base.md R44). -/
def Ports.isClockwise (x : Ports) (k : Nat) : Bool :=
  match x.byte1 with
  | some b => b.getLsbD 7
  | none => Config.freeIsClockwise k

/-- `is_firing` <- `byte1[6]` (40_decode_base.md R44). -/
def Ports.isFiring (x : Ports) (k : Nat) : Bool :=
  match x.byte1 with
  | some b => b.getLsbD 6
  | none => Config.freeIsFiring k

/-- `speed` <- `byte1[3:0]` (40_decode_base.md R44). -/
def Ports.speed (x : Ports) (k : Nat) : BitVec 4 :=
  match x.byte1 with
  | some b => b.extractLsb' 0 4
  | none => Config.freeSpeed k

/-- `azimuth` <- U-AZ of `byte0` (41_decode_azimuth.md R48). -/
def Ports.azimuth (x : Ports) (k : Nat) : BitVec 9 :=
  match x.byte0 with
  | some b => azimuthPort b
  | none => Config.freeAzimuth k

/-- `out_of_range`: it depends on `value`, `src_min` and `src_max` only (43_range_mapper.md R57, R68). -/
def Ports.outOfRange (x : Ports) (w k : Nat) : Bool :=
  match x.value, x.srcMin, x.srcMax with
  | some v, some a, some b => outOfRangePort (BitVec.ofInt w v) (BitVec.ofInt w a) (BitVec.ofInt w b)
  | _, _, _ => Config.freeOutOfRange k

/-- `mapped`: a free value where 43_range_mapper.md R68 leaves it unspecified, or where one of the five inputs is
undriven. -/
def Ports.mapped (x : Ports) (w k : Nat) : BitVec w :=
  match x.value, x.srcMin, x.srcMax, x.dstMin, x.dstMax with
  | some v, some a, some b, some c, some d =>
    (mapperOut (BitVec.ofInt w v) (BitVec.ofInt w a) (BitVec.ofInt w b) (BitVec.ofInt w c)
      (BitVec.ofInt w d)).mapped.getD (Config.freeMapped w k)
  | _, _, _, _, _ => Config.freeMapped w k

/-- All output ports of an instance at one instant. The mapper's exist only where the mapper does (10_state.md R19). -/
def Ports.outputs (x : Ports) (p : Params) (k : Nat) : PortSample where
  isClockwise := x.isClockwise k
  isFiring := x.isFiring k
  speed := x.speed k
  azimuth := x.azimuth k
  mapper := if p.hasMapper then some ⟨(x.mapped p.mapW k).toInt, x.outOfRange p.mapW k⟩ else none

/-- The output ports now. DESIGN CHOICE, log 25: an output that depends on an undriven input keeps its free value from one
sample to the next, through drive events and calls that draw none, where the spec allows any value for as long as the input
is unstable (U8). What a sample delivers is not affected: no two samples share a draw index. -/
def State.outputs (s : State) : PortSample := s.ports.outputs s.params s.draws

/-! ## The host at the ports -/

/-- The host puts a level on `byte0`, or leaves it undriven. -/
def State.driveByte0 (s : State) (x : Option Byte) : State := { s with ports := { s.ports with byte0 := x } }

/-- The host puts a level on `byte1`, or leaves it undriven. -/
def State.driveByte1 (s : State) (x : Option Byte) : State := { s with ports := { s.ports with byte1 := x } }

/-- The host puts a number on a mapper port, or leaves it undriven. A number that does not fit cannot be presented
(D24), and without a mapper there is no such port (10_state.md R19). -/
def State.driveMapper (s : State) (port : MapPort) (x : Option Int) : Host.Outcome State Fault Refusal :=
  if s.params.hasMapper then
    match x with
    | none => .next { s with ports := s.ports.setMapper port none }
    | some z =>
      if fits s.params.mapW z then .next { s with ports := s.ports.setMapper port (some z) }
      else .refused (.notPresentable port z)
  else .refused .mapperAbsent

/-- The host samples the outputs. A free value is drawn anew at every sample (logs 7, 8, 20). -/
def State.sampleOutputs (s : State) : State := (s.deliver (.sample s.outputs)).advanceDraws

end Sys2Proof.Machine
end

