-- ==== Sys2Proof/Machine/Events.lean ====
section
/-! DEFINITION. What each event of the host does (70_reset_and_hazards.md R89). -/

namespace Sys2Proof.Machine

/-- One operation call: the request is decoded and its instruction run, as one indivisible event (20_memory.md R25). -/
def State.call (s : State) (r : Request) : Host.Outcome State Fault Refusal :=
  match decode r with
  | .ok i => exec i s
  | .error e => .refused (.malformedRequest e)

/-- One event of the host (70_reset_and_hazards.md R89). -/
def State.serve (s : State) : HostEvent → Host.Outcome State Fault Refusal
  | .call r => s.call r
  | .driveByte0 x => .next (s.driveByte0 x)
  | .driveByte1 x => .next (s.driveByte1 x)
  | .driveMapper port x => s.driveMapper port x
  | .sample => .next s.sampleOutputs

/-- With nothing pending nothing happens: the block takes no step of its own (00_scope.md R5) and a run has no end
(70_reset_and_hazards.md R88). DESIGN CHOICE: log 2. -/
def State.idle (s : State) : Host.Outcome State Fault Refusal := .next s

/-- The host issues a call next, before everything that is pending. -/
def State.issue (s : State) (r : Request) : State := { s with pending := .call r :: s.pending }

end Sys2Proof.Machine
end

