-- ==== Sys2Proof/Machine/Step.lean ====
section
/-! DEFINITION. One step: the next event of the host is taken from the queue and served. -/

namespace Sys2Proof.Machine

/-- The host's next event is taken from the queue and served; with nothing pending the block idles (log 2). -/
def step (s : State) : Host.Outcome State Fault Refusal :=
  match s.pending with
  | [] => s.idle
  | e :: rest => State.serve { s with pending := rest } e

/-- The host issues the operation of a table word next. The block fetches nothing (20_memory.md R28): its "program" is
the host's queue. Log 3. -/
def State.withFetchWord (s : State) (nbits w : Nat) : State := s.issue (tableRequest nbits w)

end Sys2Proof.Machine
end

