-- ==== Sys2Proof/Machine/Assembly.lean ====
section
/-! DEFINITION. The textual syntax of the operations (30_encoding.md R90), as lists of characters: reading a line in
the spec's form or in the source's form, and writing an instruction in the spec's form. No part of the block (log 21). -/

namespace Sys2Proof.Machine

/-! ## Reading -/

/-- The rest of `text` after the word `w`. -/
def afterWord : List Char → List Char → Option (List Char)
  | [], text => some text
  | _ :: _, [] => none
  | c :: w, x :: text => if c = x then afterWord w text else none

/-- `text` without the word `w` at its end. -/
def beforeWord (w text : List Char) : Option (List Char) := (afterWord w.reverse text.reverse).map List.reverse

/-- The parts of a text between the characters `c`. -/
def splitAtChar (c : Char) : List Char → List (List Char)
  | [] => [[]]
  | x :: text =>
    match splitAtChar c text with
    | [] => [[x]]
    | part :: parts => if x = c then [] :: part :: parts else (x :: part) :: parts

/-- The text without spaces at its start. -/
def skipSpaces : List Char → List Char
  | [] => []
  | c :: text => if c = ' ' then skipSpaces text else c :: text

/-- The value of a digit in a base up to 16, upper or lower case. -/
def digitValue (base : Nat) (c : Char) : Option Nat :=
  let n := c.toNat
  let v := if 48 ≤ n ∧ n ≤ 57 then n - 48 else if 65 ≤ n ∧ n ≤ 70 then n - 55
    else if 97 ≤ n ∧ n ≤ 102 then n - 87 else base
  if v < base then some v else none

/-- The number that digits after a leading part `acc` write. -/
def readDigits (base : Nat) : Nat → List Char → Option Nat
  | acc, [] => some acc
  | acc, c :: text => (digitValue base c).bind fun v => readDigits base (acc * base + v) text

/-- A non-empty decimal number. -/
def readNat (text : List Char) : Option Nat := if text = [] then none else readDigits 10 0 text

/-- A byte: `0b` and 8 binary digits, `0x` and 2 hex digits, or decimal 0 to 255 (R90). -/
def readByte (text : List Char) : Option Byte :=
  (match text with
    | '0' :: 'b' :: ds => if ds.length = 8 then readDigits 2 0 ds else none
    | '0' :: 'x' :: ds => if ds.length = 2 then readDigits 16 0 ds else none
    | ds => (readNat ds).bind fun n => if n < 256 then some n else none).map (BitVec.ofNat 8)

/-- A signed decimal integer (R90). -/
def readInt : List Char → Option Int
  | '-' :: ds => (readNat ds).map fun n => -(n : Int)
  | ds => (readNat ds).map fun n => (n : Int)

/-- All parts read, or none. -/
def readAll {α : Type} (read : List Char → Option α) : List (List Char) → Option (List α)
  | [] => some []
  | t :: ts => (read t).bind fun x => (readAll read ts).map fun xs => x :: xs

/-- Operands separated by commas, spaces allowed after each comma. -/
def readOperands {α : Type} (read : List Char → Option α) (text : List Char) : Option (List α) :=
  readAll read ((splitAtChar ',' text).map skipSpaces)

/-- Five integers as a MAPR request. -/
def mapRequest : List Int → Option Request
  | [v, a, b, c, d] => some (.mapRange v a b c d)
  | _ => none

/-- A line in the spec's form: `DBASE b`, `DAZIM b`, `DCMD b0, b1`, `MAPR v, smin, smax, dmin, dmax` (R90). -/
def readSpecForm (text : List Char) : Option Request :=
  match afterWord ['D', 'B', 'A', 'S', 'E', ' '] text with
  | some ops => (readOperands readByte ops).map .decodeBase
  | none =>
    match afterWord ['D', 'A', 'Z', 'I', 'M', ' '] text with
    | some ops => (readOperands readByte ops).map .decodeAzimuth
    | none =>
      match afterWord ['D', 'C', 'M', 'D', ' '] text with
      | some ops => (readOperands readByte ops).map .decodeCommand
      | none =>
        match afterWord ['M', 'A', 'P', 'R', ' '] text with
        | some ops => (readOperands readInt ops).bind mapRequest
        | none => none

/-- What stands between `open_` at the start and `close` at the end. -/
def between (open_ close text : List Char) : Option (List Char) := (afterWord open_ text).bind (beforeWord close)

/-- A line in the source's form: `decodeBase(b)`, `decodeAzimuth(b)`, `decodeCommand([b0,b1])`,
`mapRange(v,smin,smax,dmin,dmax)` (R90). -/
def readSourceForm (text : List Char) : Option Request :=
  match between ['d', 'e', 'c', 'o', 'd', 'e', 'B', 'a', 's', 'e', '('] [')'] text with
  | some ops => (readOperands readByte ops).map .decodeBase
  | none =>
    match between ['d', 'e', 'c', 'o', 'd', 'e', 'A', 'z', 'i', 'm', 'u', 't', 'h', '('] [')'] text with
    | some ops => (readOperands readByte ops).map .decodeAzimuth
    | none =>
      match between ['d', 'e', 'c', 'o', 'd', 'e', 'C', 'o', 'm', 'm', 'a', 'n', 'd', '(', '['] [']', ')'] text with
      | some ops => (readOperands readByte ops).map .decodeCommand
      | none =>
        match between ['m', 'a', 'p', 'R', 'a', 'n', 'g', 'e', '('] [')'] text with
        | some ops => (readOperands readInt ops).bind mapRequest
        | none => none

/-- A line in either form. -/
def readLine (text : List Char) : Option Request :=
  match readSpecForm text with
  | some r => some r
  | none => readSourceForm text

/-! ## Writing -/

/-- The digit of a value below 16. -/
def hexDigit (v : Nat) : Char := if v < 10 then Char.ofNat (48 + v) else Char.ofNat (55 + v)

/-- A byte as `0x` and 2 hex digits. -/
def writeByte (b : Byte) : List Char := ['0', 'x', hexDigit (b.toNat / 16), hexDigit (b.toNat % 16)]

/-- The decimal digits of `n`, before `acc`; `fuel` bounds their number. -/
def writeDigits : Nat → Nat → List Char → List Char
  | 0, _, acc => acc
  | fuel + 1, n, acc =>
    if n < 10 then hexDigit n :: acc else writeDigits fuel (n / 10) (hexDigit (n % 10) :: acc)

/-- A natural number in decimal. -/
def writeNat (n : Nat) : List Char := writeDigits (n + 1) n []

/-- A signed decimal integer. -/
def writeInt (z : Int) : List Char := if z < 0 then '-' :: writeNat z.natAbs else writeNat z.natAbs

/-- The text of an instruction in the spec's form (R90). -/
def writeInstr : Instr → List Char
  | .dbase cw fire r s => ['D', 'B', 'A', 'S', 'E', ' '] ++ writeByte (baseByte cw fire r s)
  | .dazim raw => ['D', 'A', 'Z', 'I', 'M', ' '] ++ writeByte raw
  | .dcmd raw cw fire r s =>
    ['D', 'C', 'M', 'D', ' '] ++ writeByte raw ++ [',', ' '] ++ writeByte (baseByte cw fire r s)
  | .mapr v a b c d =>
    ['M', 'A', 'P', 'R', ' '] ++ writeInt v ++ [',', ' '] ++ writeInt a ++ [',', ' '] ++ writeInt b ++ [',', ' '] ++ writeInt c
      ++ [',', ' '] ++ writeInt d

end Sys2Proof.Machine
end

