-- ==== Sys2Proof/WellFormed.lean ====
section
/-! DEFINITION. Which instructions an instance of the block has, and which fit its ports. -/

namespace Sys2Proof

/-- The instance with parameters `p` has the operation. Every value of every field of the decode operations is valid
(30_encoding.md R38), and MAPR exists only where the unit U-MAP does (43_range_mapper.md, opening; D10). -/
def Instr.wellFormed (p : Params) : Instr → Bool
  | .dbase _ _ _ _ => true
  | .dazim _ => true
  | .dcmd _ _ _ _ _ => true
  | .mapr _ _ _ _ _ => p.hasMapper

/-- The instance with parameters `p` can be given the operation's operands at its ports: the mapper's operands fit
`MAP_W` bits (43_range_mapper.md R68, D24). -/
def Instr.portPresentable (p : Params) : Instr → Bool
  | .dbase _ _ _ _ => true
  | .dazim _ => true
  | .dcmd _ _ _ _ _ => true
  | .mapr v a b c d =>
    p.hasMapper && fits p.mapW v && fits p.mapW a && fits p.mapW b && fits p.mapW c && fits p.mapW d

end Sys2Proof
end

