-- ==== Sys2Proof/Safety.lean ====
section
/-! DEFINITION. What counts as a safe run: the host's duties, and the invariant of the states around the block. -/

namespace Sys2Proof.Machine

/-! ## The host's duties (70_reset_and_hazards.md R83) -/

/-- MAPR's degenerate request, `value = srcMin = srcMax`, which software must not issue (70_reset_and_hazards.md
R85 (a)). -/
def degenerate : Instr → Bool
  | .mapr v a b _ _ => v == a && a == b
  | _ => false

/-- The event can be served by an instance with parameters `p`: a call with the exact number of bytes of an operation
that the instance has (R83 items 1 and 2), but for MAPR's degenerate request where `MAP_DEGENERATE_SRC` refuses it (D14),
or an action at a port that exists, with a level that fits it. -/
def HostEvent.serviceable (p : Params) : HostEvent → Bool
  | .call r =>
    match decode r with
    | .ok i => i.wellFormed p && !(degenerate i && p.degenerateSrc == .refuse)
    | .error _ => false
  | .driveByte0 _ => true
  | .driveByte1 _ => true
  | .driveMapper _ none => p.hasMapper
  | .driveMapper _ (some z) => p.hasMapper && fits p.mapW z
  | .sample => true

/-- The event is a call whose result the spec states for every operand (R83 item 6). -/
def HostEvent.specified (p : Params) : HostEvent → Bool
  | .call r =>
    match decode r with
    | .ok i => i.wellFormed p && !degenerate i
    | .error _ => false
  | _ => false

/-! ## The invariant -/

/-- An undriven port, or a level that fits the port. -/
def levelFits (w : Nat) : Option Int → Bool
  | none => true
  | some z => fits w z

/-- The mapper's ports carry `MAP_W`-bit levels (10_state.md R19), and none at all where there is no mapper. -/
def Ports.wellFormed (p : Params) (x : Ports) : Bool :=
  (p.hasMapper || (x.value == none && x.srcMin == none && x.srcMax == none && x.dstMin == none && x.dstMax == none))
    && levelFits p.mapW x.value && levelFits p.mapW x.srcMin && levelFits p.mapW x.srcMax
    && levelFits p.mapW x.dstMin && levelFits p.mapW x.dstMax

/-- The range of an azimuth (10_state.md R16). -/
def azimuthInRange (a : Int) : Bool := decide (-90 ≤ a) && decide (a ≤ 165)

/-- What was delivered meets the data model: every azimuth lies in −90 to 165 (10_state.md R16), mapper results and
outputs come only from an instance with a mapper, and a sampled `mapped` fits its port (10_state.md R19). That `speed`
lies in 0 to 15 is in its type (10_state.md R14). -/
def Delivery.wellFormed (p : Params) : Delivery → Bool
  | .base _ => true
  | .azimuth a => azimuthInRange a
  | .settings r => azimuthInRange r.azimuth
  | .mapped _ => p.hasMapper
  | .sample r =>
    match r.mapper with
    | none => !p.hasMapper
    | some m => p.hasMapper && fits p.mapW m.mapped

/-- The invariant of the states around the block. -/
def State.Inv (s : State) : Prop :=
  s.ports.wellFormed s.params = true ∧ ∀ d ∈ s.delivered, Delivery.wellFormed s.params d = true

/-- A safe run of `k` steps: no step is refused (no step can fault, since there is no fault). -/
def State.SafeFor (s : State) (k : Nat) : Prop := ∃ t, Sys2Proof.core.run k s = .next t

/-! ## The run as a function of the calls (00_scope.md R6) -/

/-- What an instruction delivers, as a function of its operands alone; none where the spec states no result. -/
def deliveryOf : Instr → Option Delivery
  | .dbase cw fire _ speed => some (.base (baseSettingsOf cw fire speed))
  | .dazim raw => some (.azimuth (azimuthOf raw))
  | .dcmd raw cw fire _ speed => some (.settings (combine (azimuthOf raw) (baseSettingsOf cw fire speed)))
  | .mapr v a b c d =>
    match mapOutcome v a b c d with
    | .raise => some (.mapped .outOfRangeError)
    | .value z => some (.mapped (.ok z))
    | .unspecified => none

/-- What a request delivers, as a function of its operands alone. -/
def resultOf (r : Request) : Option Delivery := (decode r).toOption.bind deliveryOf

/-- On every instance with parameters `p`, in every state, the host's call `r` delivers `d` in one step, and that is the
whole effect of the step: the event leaves the queue and `d` is handed over. -/
def Delivers (p : Params) (r : Request) (d : Delivery) : Prop :=
  ∀ (s : State) (rest : List HostEvent), s.params = p → s.pending = .call r :: rest →
    step s = .next { s with pending := rest, delivered := s.delivered ++ [d] }

end Sys2Proof.Machine
end

