-- ==== Sys2Proof/Certificates/Slice0/Obligations.lean ====
section
/-! DEFINITION. The statements for the provers. `Delivers p r d` (Sys2Proof/Safety.lean): on every instance with
parameters `p`, in every state, the call `r` delivers `d` in one step and does nothing else. -/

open Sys2Proof Sys2Proof.Machine

/-! ## The decode operations -/

/-- DBASE completes in every state, on every operand: the three fields are delivered and nothing else changes
(40_decode_base.md). -/
def Obligations.DbaseExecDeliversItsFields : Prop :=
  ∀ (cw fire : Bool) (r : BitVec 2) (sp : BitVec 4) (s : State),
    exec (.dbase cw fire r sp) s =
      .next { s with
        delivered := s.delivered ++ [.base { isClockwise := cw, speed := ⟨sp.toNat, sp.isLt⟩, isFiring := fire }] }

/-- DAZIM completes in every state, on every operand, and delivers `raw − 90` (41_decode_azimuth.md). -/
def Obligations.DazimExecDeliversRawMinusNinety : Prop :=
  ∀ (raw : Byte) (s : State),
    exec (.dazim raw) s = .next { s with delivered := s.delivered ++ [.azimuth ((raw.toNat : Int) - 90)] }

/-- DCMD completes in every state, on every operand, and delivers the azimuth of byte0 with the settings of byte1
(42_decode_command.md). -/
def Obligations.DcmdExecDeliversBothHalves : Prop :=
  ∀ (raw : Byte) (cw fire : Bool) (r : BitVec 2) (sp : BitVec 4) (s : State),
    exec (.dcmd raw cw fire r sp) s =
      .next { s with
        delivered := s.delivered ++
          [.settings { isClockwise := cw, speed := ⟨sp.toNat, sp.isLt⟩, isFiring := fire,
                       azimuth := (raw.toNat : Int) - 90 }] }

/-- 40_decode_base.md R40: the source's three lines, for every byte, with no flag, no error and no other effect. -/
def Obligations.DbaseDeliversShiftAndMask : Prop :=
  ∀ (p : Params) (b : Byte), ∃ x : BaseSettings,
    Delivers p (.decodeBase [b]) (.base x) ∧
    x.isClockwise = (((b >>> 7) &&& 1#8) != 0#8) ∧
    x.isFiring = (((b >>> 6) &&& 1#8) != 0#8) ∧
    x.speed.val = (b &&& 0b1111#8).toNat

/-- The laws of DBASE and the arithmetic forms that the spec derives from them (40_decode_base.md, "Equivalent arithmetic
forms"). -/
def Obligations.DbaseArithmeticForms : Prop :=
  ∀ (p : Params) (b : Byte), ∃ x : BaseSettings,
    Delivers p (.decodeBase [b]) (.base x) ∧
    x.speed.val = (b &&& 0b1111#8).toNat ∧ x.isClockwise = b.getLsbD 7 ∧ x.isFiring = b.getLsbD 6 ∧
    x.speed.val ≤ 15 ∧
    x.isClockwise = decide (128 ≤ b.toNat) ∧
    x.isFiring = decide (64 ≤ b.toNat % 128) ∧
    x.speed.val = b.toNat % 16

/-- 30_encoding.md R37: bits 5 and 4 are ignored, any of their four values is accepted and changes no output:
`DBASE(b) = DBASE(b & 0b11001111)`. -/
def Obligations.DbaseIgnoresReservedBits : Prop :=
  ∀ (p : Params) (b : Byte), ∃ x : BaseSettings,
    Delivers p (.decodeBase [b]) (.base x) ∧ Delivers p (.decodeBase [b &&& 0b11001111#8]) (.base x) ∧
    ∀ r : Nat, r < 4 →
      Delivers p (.decodeBase [(b &&& 0b11001111#8) ||| (BitVec.ofNat 8 r <<< 4)]) (.base x)

/-- DBASE is onto and 4-to-1: the bytes that decode to `{c, s, f}` are exactly `128·c + 64·f + 16·r + s` for `r` = 0, 1, 2,
3 (40_decode_base.md, the consequence the spec derives from the ignored bits). -/
def Obligations.DbaseHasFourPreimages : Prop :=
  ∀ (p : Params) (b : Byte) (x : BaseSettings),
    Delivers p (.decodeBase [b]) (.base x) ↔
      ∃ r : Nat, r < 4 ∧ b.toNat = 128 * x.isClockwise.toNat + 64 * x.isFiring.toNat + 16 * r + x.speed.val

/-- Structure of the extractors (40_decode_base.md, derived there): each result bit is one input bit, with no inversion, and flipping one input bit flips exactly
that result bit (none for bits 5 and 4). -/
def Obligations.DbaseEachResultBitIsOneInputBit : Prop :=
  ∀ (p : Params) (b : Byte) (k : Nat), k < 8 → ∃ x y : BaseSettings,
    Delivers p (.decodeBase [b]) (.base x) ∧ Delivers p (.decodeBase [b ^^^ (1#8 <<< k)]) (.base y) ∧
    (x.isClockwise = b.getLsbD 7 ∧ x.isFiring = b.getLsbD 6 ∧ ∀ j : Nat, j < 4 → x.speed.val.testBit j = b.getLsbD j) ∧
    y.isClockwise = (if k = 7 then !x.isClockwise else x.isClockwise) ∧
    y.isFiring = (if k = 6 then !x.isFiring else x.isFiring) ∧
    y.speed.val = (if k < 4 then x.speed.val ^^^ (1 <<< k) else x.speed.val)

/-- 41_decode_azimuth.md R45: `azimuth = byte − 90` in unbounded arithmetic, in −90 to 165, with no error. -/
def Obligations.DazimDeliversByteMinusNinety : Prop :=
  ∀ (p : Params) (b : Byte),
    Delivers p (.decodeAzimuth [b]) (.azimuth ((b.toNat : Int) - 90)) ∧
    -90 ≤ (b.toNat : Int) - 90 ∧ (b.toNat : Int) - 90 ≤ 165

/-- The arithmetic law of DAZIM (41_decode_azimuth.md, in part derived there): the sign of the result, strict monotonicity, and each of the integers −90 to 165 the
azimuth of exactly one byte, recovered as `azimuth + 90`. -/
def Obligations.DazimArithmeticLaw : Prop :=
  (∀ (p : Params) (b : Byte), ∃ z : Int, Delivers p (.decodeAzimuth [b]) (.azimuth z) ∧
    z = (b.toNat : Int) - 90 ∧ (z < 0 ↔ b.toNat < 90) ∧ (z = 0 ↔ b.toNat = 90) ∧ (0 < z ↔ 90 < b.toNat)) ∧
  (∀ (p : Params) (b b' : Byte) (z z' : Int),
    Delivers p (.decodeAzimuth [b]) (.azimuth z) → Delivers p (.decodeAzimuth [b']) (.azimuth z') →
    b.toNat < b'.toNat → z < z') ∧
  (∀ (p : Params) (z : Int), -90 ≤ z → z ≤ 165 →
    ∃ b : Byte, Delivers p (.decodeAzimuth [b]) (.azimuth z) ∧ (b.toNat : Int) = z + 90 ∧
      ∀ b' : Byte, Delivers p (.decodeAzimuth [b']) (.azimuth z) → b' = b)

/-- 41_decode_azimuth.md R47: bytes 181 to 255 decode to 91 to 165, unchanged, and MAPR with source bounds −90 and 90
raises the error on such an azimuth. -/
def Obligations.DazimPassesWideAzimuthsOn : Prop :=
  ∀ (p : Params) (b : Byte), 181 ≤ b.toNat →
    Delivers p (.decodeAzimuth [b]) (.azimuth ((b.toNat : Int) - 90)) ∧
    91 ≤ (b.toNat : Int) - 90 ∧ (b.toNat : Int) - 90 ≤ 165 ∧
    (p.hasMapper = true → ∀ c d : Int,
      Delivers p (.mapRange ((b.toNat : Int) - 90) (-90) 90 c d) (.mapped .outOfRangeError))

/-- 42_decode_command.md R50: byte0 to the azimuth, byte1 to the base settings, for every frame. -/
def Obligations.DcmdDeliversAzimuthThenBase : Prop :=
  ∀ (p : Params) (b0 b1 : Byte), ∃ x : TurretSettings,
    Delivers p (.decodeCommand [b0, b1]) (.settings x) ∧
    x.azimuth = (b0.toNat : Int) - 90 ∧
    x.isClockwise = (((b1 >>> 7) &&& 1#8) != 0#8) ∧
    x.isFiring = (((b1 >>> 6) &&& 1#8) != 0#8) ∧
    x.speed.val = (b1 &&& 0b1111#8).toNat

/-- DCMD is the combination of the two 1-byte decodes, each field depends on one byte, and the frames that decode to given
settings are exactly four (42_decode_command.md, Composition law; the count of preimages is derived there). -/
def Obligations.DcmdIsTheTwoDecodesCombined : Prop :=
  (∀ (p : Params) (b0 b1 : Byte) (z : Int) (x : BaseSettings),
    Delivers p (.decodeAzimuth [b0]) (.azimuth z) → Delivers p (.decodeBase [b1]) (.base x) →
    Delivers p (.decodeCommand [b0, b1])
      (.settings { isClockwise := x.isClockwise, speed := x.speed, isFiring := x.isFiring, azimuth := z })) ∧
  (∀ (p : Params) (b0 b0' b1 b1' : Byte) (x y z : TurretSettings),
    Delivers p (.decodeCommand [b0, b1]) (.settings x) → Delivers p (.decodeCommand [b0, b1']) (.settings y) →
    Delivers p (.decodeCommand [b0', b1]) (.settings z) →
    x.azimuth = y.azimuth ∧ x.isClockwise = z.isClockwise ∧ x.speed = z.speed ∧ x.isFiring = z.isFiring) ∧
  (∀ (p : Params) (b0 b1 : Byte) (x : TurretSettings),
    Delivers p (.decodeCommand [b0, b1]) (.settings x) ↔
      (b0.toNat : Int) = x.azimuth + 90 ∧
      ∃ r : Nat, r < 4 ∧ b1.toNat = 128 * x.isClockwise.toNat + 64 * x.isFiring.toNat + 16 * r + x.speed.val)

/-- 60_exceptions.md R71: no decode operation raises an error under any operands: with its exact number of bytes it
delivers settings or an azimuth, never the error, and every byte value is valid. -/
def Obligations.DecodeOperationsRaiseNoError : Prop :=
  ∀ (p : Params) (b0 b1 : Byte),
    (∃ x, Delivers p (.decodeBase [b0]) (.base x)) ∧ (∃ z, Delivers p (.decodeAzimuth [b0]) (.azimuth z)) ∧
    (∃ y, Delivers p (.decodeCommand [b0, b1]) (.settings y)) ∧
    ∀ r : Request, r = .decodeBase [b0] ∨ r = .decodeAzimuth [b0] ∨ r = .decodeCommand [b0, b1] →
      ¬ Delivers p r (.mapped .outOfRangeError)

/-- A decode request with a wrong number of bytes has no meaning: it is refused by name (20_memory.md, Frame length; D9). -/
def Obligations.WrongFrameLengthIsRefused : Prop :=
  ∀ (s : State) (bs : List Byte) (rest : List HostEvent),
    (bs.length ≠ 1 → s.pending = .call (.decodeBase bs) :: rest →
      step s = .refused (.malformedRequest (.wrongLength 1 bs.length))) ∧
    (bs.length ≠ 1 → s.pending = .call (.decodeAzimuth bs) :: rest →
      step s = .refused (.malformedRequest (.wrongLength 1 bs.length))) ∧
    (bs.length ≠ 2 → s.pending = .call (.decodeCommand bs) :: rest →
      step s = .refused (.malformedRequest (.wrongLength 2 bs.length)))

/-! ## The range mapper -/

/-- MAPR completes in every state of an instance with a mapper. Outside the normalised source bounds it delivers the
error; inside, with `srcMin ≠ srcMax`, it delivers `dstMin + tdiv(n, d)`. Nothing else changes (43_range_mapper.md, the
resolved contract; exact numerics and truncation are the spec's decisions D12 and D13, logs 10 and 11). -/
def Obligations.MaprExecDeliversScaledValueOrError : Prop :=
  ∀ (v a b c d : Int) (s : State), s.params.hasMapper = true →
    (v < min a b ∨ max a b < v →
      exec (.mapr v a b c d) s = .next { s with delivered := s.delivered ++ [.mapped .outOfRangeError] }) ∧
    (min a b ≤ v → v ≤ max a b → a ≠ b →
      exec (.mapr v a b c d) s =
        .next { s with delivered := s.delivered ++ [.mapped (.ok (c + ((v - a) * (d - c)).tdiv (b - a)))] })

/-- MAPR with `value = srcMin = srcMax` completes too where `MAP_DEGENERATE_SRC` is "any value": some integer is delivered,
no error is raised, and of the spec's state nothing changes. The value is free (43_range_mapper.md leaves it unspecified);
that it is drawn by the model's own field `draws` is the model's choice, log 6. -/
def Obligations.MaprDegenerateSourceDeliversSomeValue : Prop :=
  ∀ (v c d : Int) (s : State), s.params.hasMapper = true → s.params.degenerateSrc = .anyValue →
    ∃ z : Int, exec (.mapr v v v c d) s =
      .next { s with delivered := s.delivered ++ [.mapped (.ok z)], draws := s.draws + 1 }

/-- MAPR with `value = srcMin = srcMax` is refused by name where `MAP_DEGENERATE_SRC` is "refuse", and nowhere else is it
refused so (92_eei_decisions.md D14: "no meaning in the model"; the refusal is the model's form of it, log 6). -/
def Obligations.MaprDegenerateSourceRefused : Prop :=
  ∀ (v a b c d : Int) (s : State), s.params.hasMapper = true →
    (exec (.mapr v a b c d) s = .refused .degenerateSource ↔ (v = a ∧ a = b) ∧ s.params.degenerateSrc = .refuse)

/-- 43_range_mapper.md R57: MAPR raises exactly when `value` lies outside the normalised source bounds, both inclusive,
whatever the order of the source bounds and whatever the destination bounds. -/
def Obligations.MaprRaisesExactlyOutsideTheBounds : Prop :=
  ∀ (p : Params), p.hasMapper = true → ∀ v a b c d : Int,
    (Delivers p (.mapRange v a b c d) (.mapped .outOfRangeError) ↔ v < min a b ∨ max a b < v) ∧
    (∀ c' d' : Int,
      (Delivers p (.mapRange v a b c d) (.mapped .outOfRangeError) ↔
        Delivers p (.mapRange v b a c' d') (.mapped .outOfRangeError))) ∧
    (∀ z : Int, v < min a b ∨ max a b < v → ¬ Delivers p (.mapRange v a b c d) (.mapped (.ok z)))

/-- 60_exceptions.md R74: the two sub-conditions of the error never hold together; where the out-of-range condition and
`srcMin = srcMax` both hold, the error is raised; and every request but `value = srcMin = srcMax` is fully specified. -/
def Obligations.MaprErrorComesBeforeDegenerateSource : Prop :=
  ∀ (p : Params), p.hasMapper = true → ∀ v a b c d : Int,
    ¬ (v < min a b ∧ max a b < v) ∧
    (v ≠ a → Delivers p (.mapRange v a a c d) (.mapped .outOfRangeError)) ∧
    (¬ (v = a ∧ a = b) → ∃ x : MapResult, Delivers p (.mapRange v a b c d) (.mapped x))

/-- MAPR raises no error other than OutOfRangeError (60_exceptions.md, The error): on every accepted request, ascending or
descending, degenerate or not, it completes with an integer (for `value = srcMin = srcMax` a free one, where
`MAP_DEGENERATE_SRC` is "any value"; `draws` is the model's own field, log 6), and with `dstMin = dstMax` and `srcMin ≠ srcMax` the integer is `dstMin`. -/
def Obligations.MaprRaisesNoOtherError : Prop :=
  ∀ (v a b c d : Int) (s : State), s.params.hasMapper = true → min a b ≤ v → v ≤ max a b →
    (v = a → a = b → s.params.degenerateSrc = .anyValue) →
    ∃ (z : Int) (k : Nat),
      exec (.mapr v a b c d) s = .next { s with delivered := s.delivered ++ [.mapped (.ok z)], draws := k } ∧
      (c = d → a ≠ b → z = c)

/-- The spec's five guarantees for accepted operands with `srcMin ≠ srcMax` (43_range_mapper.md, in part derived there,
under the spec's numerics D12; log 10). -/
def Obligations.MaprGuarantees : Prop :=
  ∀ (p : Params), p.hasMapper = true → ∀ a b c d : Int, a ≠ b →
    Delivers p (.mapRange a a b c d) (.mapped (.ok c)) ∧
    Delivers p (.mapRange b a b c d) (.mapped (.ok d)) ∧
    (∀ v : Int, min a b ≤ v → v ≤ max a b → ∃ z : Int,
      Delivers p (.mapRange v a b c d) (.mapped (.ok z)) ∧
      min c d ≤ z ∧ z ≤ max c d ∧
      ((z - c) * (b - a) = (v - a) * (d - c) ↔ (b - a) ∣ (v - a) * (d - c))) ∧
    (∀ v v' z z' : Int, v ≤ v' →
      Delivers p (.mapRange v a b c d) (.mapped (.ok z)) → Delivers p (.mapRange v' a b c d) (.mapped (.ok z')) →
      (0 < (d - c) * (b - a) → z ≤ z') ∧ ((d - c) * (b - a) < 0 → z' ≤ z) ∧ (d = c → z = z'))

/-- Source bounds in descending order (43_range_mapper.md; under the numerics of D12, log 10): with descending source bounds the validation is unaffected and the mapping runs the other
way; the quotient has the sign of `dstMax − dstMin`, as in the ascending case. -/
def Obligations.MaprDescendingSourceRunsTheOtherWay : Prop :=
  ∀ (p : Params), p.hasMapper = true →
    (∀ v a b c d : Int, b < a →
      (Delivers p (.mapRange v a b c d) (.mapped .outOfRangeError) ↔ v < b ∨ a < v) ∧
      Delivers p (.mapRange a a b c d) (.mapped (.ok c)) ∧ Delivers p (.mapRange b a b c d) (.mapped (.ok d)) ∧
      (∀ z : Int, Delivers p (.mapRange v a b c d) (.mapped (.ok z)) → (c ≤ d → c ≤ z) ∧ (d ≤ c → z ≤ c))) ∧
    Delivers p (.mapRange 45 100 0 0 10) (.mapped (.ok 5)) ∧ Delivers p (.mapRange 45 0 100 0 10) (.mapped (.ok 4))

/-- With `dstMin = dstMax` every accepted value maps to it (43_range_mapper.md, Degenerate destination interval: the spec's
decision D15, log 23). -/
def Obligations.MaprDegenerateDestinationIsConstant : Prop :=
  ∀ (p : Params), p.hasMapper = true → ∀ v a b c : Int, a ≠ b → min a b ≤ v → v ≤ max a b →
    Delivers p (.mapRange v a b c c) (.mapped (.ok c))

/-- With descending destination bounds the result is `dstMin − floor(|q|)`, and this is the only operand class in which
`floor` and truncation toward zero can differ (43_range_mapper.md, Destination bounds in descending order: the spec's
decision D13, log 11). -/
def Obligations.MaprDescendingDestinationTruncates : Prop :=
  (∀ (p : Params), p.hasMapper = true → ∀ v a b c d : Int, a ≠ b → min a b ≤ v → v ≤ max a b → d < c →
    Delivers p (.mapRange v a b c d)
      (.mapped (.ok (c - (((v - a) * (d - c)).natAbs / (b - a).natAbs : Nat))))) ∧
  (∀ v a b c d : Int, c ≤ d ∨ (b - a) ∣ (v - a) * (d - c) →
    mapOutcomeWith .exact .floor v a b c d = mapOutcomeWith .exact .trunc v a b c d)

/-- The port layer of MAPR (43_range_mapper.md; the spec's decisions D11 and D16): the datapath of U-MAP at the stated widths. No intermediate overflows, `out_of_range` is
MAPR's error, and with `out_of_range` = 0 and `d ≠ 0` the `mapped` port carries `tc_MAP_W` of MAPR's result, which fits;
otherwise it is unspecified. For every width. -/
def Obligations.MapperPortsComputeMapr : Prop :=
  ∀ (w : Nat) (v a b c d : BitVec w),
    (wideSub v a).toInt = v.toInt - a.toInt ∧
    ((wideSub v a).signExtend (2 * w + 2) * (wideSub d c).signExtend (2 * w + 2)).toInt =
      (v.toInt - a.toInt) * (d.toInt - c.toInt) ∧
    (mapperOut v a b c d).outOfRange = outOfRange v.toInt a.toInt b.toInt ∧
    (∀ z : Int, mapOutcome v.toInt a.toInt b.toInt c.toInt d.toInt = .value z →
      (mapperOut v a b c d).mapped = some (BitVec.ofInt w z) ∧ (BitVec.ofInt w z).toInt = z) ∧
    ((mapperOut v a b c d).mapped = none ↔
      outOfRange v.toInt a.toInt b.toInt = true ∨ a.toInt = b.toInt)

/-- The host that drives the five mapper ports and samples reads what MAPR delivers for the same operands: `out_of_range`
is the error, `mapped` the value, whatever was on the ports before (43_range_mapper.md, port layer; 60_exceptions.md,
After the error). -/
def Obligations.SampledMapperOutputsAgreeWithMapr : Prop :=
  ∀ (s : State) (rest : List HostEvent) (v a b c d : Int), s.params.hasMapper = true →
    fits s.params.mapW v = true → fits s.params.mapW a = true → fits s.params.mapW b = true →
    fits s.params.mapW c = true → fits s.params.mapW d = true →
    s.ports.value = some v → s.ports.srcMin = some a → s.ports.srcMax = some b →
    s.ports.dstMin = some c → s.ports.dstMax = some d → s.pending = .sample :: rest →
    ∃ (o : PortSample) (m : MapperSample),
      step s = .next { s with pending := rest, delivered := s.delivered ++ [.sample o], draws := s.draws + 1 } ∧
      o.mapper = some m ∧
      (m.outOfRange = true ↔ Delivers s.params (.mapRange v a b c d) (.mapped .outOfRangeError)) ∧
      (∀ z : Int, Delivers s.params (.mapRange v a b c d) (.mapped (.ok z)) → m.mapped = z)

/-- 43_range_mapper.md R69: the azimuth use of the source's examples, −90..90 to 0..180, is `value + 90`; an azimuth of
91 to 165 raises the error. -/
def Obligations.MaprServoUse : Prop :=
  ∀ (p : Params), p.hasMapper = true → ∀ v : Int,
    (-90 ≤ v → v ≤ 90 → Delivers p (.mapRange v (-90) 90 0 180) (.mapped (.ok (v + 90)))) ∧
    (91 ≤ v → v ≤ 165 → Delivers p (.mapRange v (-90) 90 0 180) (.mapped .outOfRangeError))

/-- On an instance without the mapper the operation MAPR does not exist: it is refused by name (43_range_mapper.md,
opening; the refusal is the model's, log 14). -/
def Obligations.MaprAbsentIsRefused : Prop :=
  ∀ (v a b c d : Int) (s : State), s.params.hasMapper = false →
    exec (.mapr v a b c d) s = .refused .mapperAbsent

/-- The validation comes before any arithmetic, so it is the same for every choice of `MAP_NUMERICS` and `MAP_ROUND`
(43_range_mapper.md, steps 1 and 2). -/
def Obligations.ValidationIsTheSameForAllNumerics : Prop :=
  ∀ (num : MapNumerics) (rnd : MapRound) (v a b c d : Int),
    mapOutcomeWith num rnd v a b c d = .raise ↔ v < min a b ∨ max a b < v

/-- The alternative numerics `float2(F)`: under binary64 and binary32 the divergence vectors of
93_implementation_defined.md G3, against 59, 7, 7, 7 exactly. The formats and the rounding are PRESUMED (log 12). -/
def Obligations.FloatAlternativeDiverges : Prop :=
  mapOutcomeWith (.float2 .binary64) .trunc 3 0 3 0 59 = .value 58 ∧ mapOutcome 3 0 3 0 59 = .value 59 ∧
  mapOutcomeWith (.float2 .binary64) .trunc 9 0 9 0 7 = .value 6 ∧ mapOutcome 9 0 9 0 7 = .value 7 ∧
  mapOutcomeWith (.float2 .binary32) .trunc 1 0 1 0 7 = .value 6 ∧ mapOutcome 1 0 1 0 7 = .value 7 ∧
  mapOutcomeWith (.float2 .binary32) .trunc 1 0 2 0 14 = .value 6 ∧ mapOutcome 1 0 2 0 14 = .value 7

/-- The alternative numerics `float2(F)` agree with the exact ones at scale 1, `srcMax − srcMin = dstMax − dstMin`, under
either rounding, in every format that holds the source span exactly (92_eei_decisions.md D12: the readings agree where both
floating divisions are exact). The format's arithmetic is PRESUMED (log 12). -/
def Obligations.FloatAlternativeAgreesAtScaleOne : Prop :=
  ∀ (F : FloatFormat) (rnd : MapRound) (v a b c d : Int),
    1 ≤ F.precision → F.minExp ≤ 0 → (F.precision : Int) ≤ F.maxExp + 1 →
    a ≠ b → d - c = b - a → (b - a).natAbs < 2 ^ F.precision →
    mapOutcomeWith (.float2 F) rnd v a b c d = mapOutcomeWith .exact rnd v a b c d

/-! ## The ports -/

/-- The port layer of DAZIM (41_decode_azimuth.md; the spec's decision D3): the 9-bit pattern of `azimuth`, its value and its sign bit. -/
def Obligations.AzimuthPortPattern : Prop :=
  ∀ (s : State) (b : Byte), s.ports.byte0 = some b →
    s.outputs.azimuth.toNat = (b.toNat + 422) % 512 ∧ s.outputs.azimuth.toInt = (b.toNat : Int) - 90 ∧
    (s.outputs.azimuth.getLsbD 8 = true ↔ b.toNat < 90) ∧
    (b = 0#8 → s.outputs.azimuth = 0b110100110#9) ∧ (b = 89#8 → s.outputs.azimuth = 0b111111111#9) ∧
    (b = 90#8 → s.outputs.azimuth = 0b000000000#9) ∧ (b = 180#8 → s.outputs.azimuth = 0b001011010#9) ∧
    (b = 255#8 → s.outputs.azimuth = 0b010100101#9)

/-- The port layer of DCMD (42_decode_command.md; the spec's decision D2): DCMD is the whole decoder port set read at once: a sample with both byte ports driven reads
the fields that DCMD delivers for the frame. -/
def Obligations.SampledDecoderPortsAgreeWithDcmd : Prop :=
  ∀ (s : State) (rest : List HostEvent) (b0 b1 : Byte),
    s.ports.byte0 = some b0 → s.ports.byte1 = some b1 → s.pending = .sample :: rest →
    ∃ (o : PortSample) (x : TurretSettings),
      step s = .next { s with pending := rest, delivered := s.delivered ++ [.sample o], draws := s.draws + 1 } ∧
      o.azimuth = BitVec.ofInt 9 ((b0.toNat : Int) - 90) ∧ o.isClockwise = b1.getLsbD 7 ∧
      o.isFiring = b1.getLsbD 6 ∧ o.speed = b1.extractLsb' 0 4 ∧
      Delivers s.params (.decodeCommand [b0, b1]) (.settings x) ∧
      x.azimuth = o.azimuth.toInt ∧ x.isClockwise = o.isClockwise ∧ x.isFiring = o.isFiring ∧
      x.speed.val = o.speed.toNat

/-- The port layer of the 1-byte base scheme (40_decode_base.md; the spec's decision D2): with `byte1` driven, whatever
`byte0` carries, driven or not, the three outputs are the stated bits of `byte1`, they are what DBASE delivers for that
byte, and a sample hands them over. -/
def Obligations.BaseSchemeReadsByte1Alone : Prop :=
  ∀ (s : State) (b : Byte), s.ports.byte1 = some b →
    s.outputs.isClockwise = b.getLsbD 7 ∧ s.outputs.isFiring = b.getLsbD 6 ∧ s.outputs.speed = b.extractLsb' 0 4 ∧
    (∃ x : BaseSettings, Delivers s.params (.decodeBase [b]) (.base x) ∧ x.isClockwise = s.outputs.isClockwise ∧
      x.isFiring = s.outputs.isFiring ∧ x.speed.val = s.outputs.speed.toNat) ∧
    (∀ rest : List HostEvent, s.pending = .sample :: rest → ∃ o : PortSample,
      step s = .next { s with pending := rest, delivered := s.delivered ++ [.sample o], draws := s.draws + 1 } ∧
      o.isClockwise = b.getLsbD 7 ∧ o.isFiring = b.getLsbD 6 ∧ o.speed = b.extractLsb' 0 4)

/-- Independent halves (20_memory.md, derived there; ports: the spec's decision D2): `azimuth` depends on `byte0` only and the other three decoder outputs on `byte1` only; when the host
changes one port, what reads the other is unchanged, so a mixed pair decodes half by half. The model's choice: where that
other port is undriven, "unchanged" says that its outputs keep their free value until the next draw (log 25); the spec
allows them any value there (U8). -/
def Obligations.DecoderPortHalvesAreIndependent : Prop :=
  (∀ (s t : State) (b : Byte), s.ports.byte0 = some b → t.ports.byte0 = some b → s.outputs.azimuth = t.outputs.azimuth) ∧
  (∀ (s t : State) (b : Byte), s.ports.byte1 = some b → t.ports.byte1 = some b →
    s.outputs.isClockwise = t.outputs.isClockwise ∧ s.outputs.isFiring = t.outputs.isFiring ∧ s.outputs.speed = t.outputs.speed) ∧
  (∀ (s : State) (rest : List HostEvent) (x : Option Byte), s.pending = .driveByte0 x :: rest →
    ∃ t, step s = .next t ∧ t.outputs.isClockwise = s.outputs.isClockwise ∧ t.outputs.isFiring = s.outputs.isFiring ∧
      t.outputs.speed = s.outputs.speed ∧ t.ports.byte0 = x ∧ t.ports.byte1 = s.ports.byte1) ∧
  (∀ (s : State) (rest : List HostEvent) (x : Option Byte), s.pending = .driveByte1 x :: rest →
    ∃ t, step s = .next t ∧ t.outputs.azimuth = s.outputs.azimuth ∧ t.ports.byte1 = x ∧ t.ports.byte0 = s.ports.byte0)

/-- The `out_of_range` port depends on `value`, `src_min` and `src_max` only: whatever the destination ports carry, driven
or not, a sample reads the same error bit, the one of MAPR's validation (43_range_mapper.md, step 2;
70_reset_and_hazards.md, Reset: an undriven input leaves the other outputs unaffected). -/
def Obligations.OutOfRangePortIgnoresDestinationPorts : Prop :=
  ∀ (s : State) (v a b : Int), s.params.hasMapper = true →
    fits s.params.mapW v = true → fits s.params.mapW a = true → fits s.params.mapW b = true →
    s.ports.value = some v → s.ports.srcMin = some a → s.ports.srcMax = some b →
    ∃ m : MapperSample, s.outputs.mapper = some m ∧ (m.outOfRange = true ↔ v < min a b ∨ max a b < v)

/-- What the host does at the ports changes nothing but the one port it drives, or delivers one sample of the outputs and
leaves every port as it was, driven or not: the frame of the port events (10_state.md section 3). That a sample reads all
outputs at one instant, and that `draws` moves on with it and not with a drive event, are the model's choice (logs 20, 6
and 25). A level that does not fit a mapper port, or a port that does not exist, is refused
(the model's choice, logs 14 and 15). -/
def Obligations.PortEventsTouchOnePort : Prop :=
  ∀ (s : State) (rest : List HostEvent),
    (∀ x : Option Byte, s.pending = .driveByte0 x :: rest →
      step s = .next { s with pending := rest, ports := { s.ports with byte0 := x } }) ∧
    (∀ x : Option Byte, s.pending = .driveByte1 x :: rest →
      step s = .next { s with pending := rest, ports := { s.ports with byte1 := x } }) ∧
    (∀ (q : MapPort) (x : Option Int), s.pending = .driveMapper q x :: rest → s.params.hasMapper = true →
      (∀ z, x = some z → fits s.params.mapW z = true) →
      ∃ P : Ports, step s = .next { s with pending := rest, ports := P } ∧ P.mapper q = x ∧
        P.byte0 = s.ports.byte0 ∧ P.byte1 = s.ports.byte1 ∧ ∀ q' : MapPort, q' ≠ q → P.mapper q' = s.ports.mapper q') ∧
    (∀ (q : MapPort) (z : Int), s.pending = .driveMapper q (some z) :: rest → s.params.hasMapper = true →
      fits s.params.mapW z = false → step s = .refused (.notPresentable q z)) ∧
    (∀ (q : MapPort) (x : Option Int), s.pending = .driveMapper q x :: rest → s.params.hasMapper = false →
      step s = .refused .mapperAbsent) ∧
    (s.pending = .sample :: rest →
      step s = .next { s with
        pending := rest, delivered := s.delivered ++ [.sample s.outputs], draws := s.draws + 1 })

/-! ## Encoding -/

/-- Words written out from the formats (30_encoding.md) decode to the instructions they stand for: the source's examples,
all ones, the reserved bits alone, a frame with byte0 first, and the mapper's five operands in order. -/
def Obligations.WordsOfTheSpecDecode : Prop :=
  decode (.decodeBase [0b11000001#8]) = .ok (.dbase true true 0b00#2 1#4) ∧
  decode (.decodeBase [0b01001000#8]) = .ok (.dbase false true 0b00#2 8#4) ∧
  decode (.decodeBase [0b10110111#8]) = .ok (.dbase true false 0b11#2 7#4) ∧
  decode (.decodeAzimuth [0b10110100#8]) = .ok (.dazim 180#8) ∧
  decode (.decodeCommand [0b00000000#8, 0b10010000#8]) = .ok (.dcmd 0#8 true false 0b01#2 0#4) ∧
  decode (.mapRange 50 0 100 1 10) = .ok (.mapr 50 0 100 1 10)

/-- Decode and encode agree both ways: every instruction, with every field at every value, is read back from its own
words, and every request with its operation's number of bytes is what its instruction encodes to: no bit of a byte is
dropped, the reserved ones among them. -/
def Obligations.DecodeAndEncodeAgree : Prop :=
  (∀ i : Instr, decode (encode i) = .ok i ∧ (encode i).exactLength = true) ∧
  (∀ r : Request, r.exactLength = true → ∃ i : Instr, decode r = .ok i ∧ encode i = r ∧
    ∀ j : Instr, encode j = r → j = i)

/-- The 16-bit notation of a frame: byte0 in bits 15 to 8 and byte1 in bits 7 to 0, each bit in its place, and the frame
is read back from it (30_encoding.md, format C; D8). -/
def Obligations.FrameStringNotation : Prop :=
  ∀ b0 b1 : Byte,
    frameOfString (frameString b0 b1) = .decodeCommand [b0, b1] ∧
    (∀ k : Nat, k < 8 → (frameString b0 b1).getLsbD k = b1.getLsbD k) ∧
    (∀ k : Nat, k < 8 → (frameString b0 b1).getLsbD (k + 8) = b0.getLsbD k)

/-- The textual syntax: the text of an instruction, written in the spec's form, reads as the request that the instruction
encodes to (30_encoding.md, Syntax). -/
def Obligations.WrittenInstructionReadsBack : Prop :=
  ∀ i : Instr, readLine (writeInstr i) = some (encode i)

/-! ## Steps and runs -/

/-- A step runs the decoded instruction: the call at the head of the queue is decoded and exec runs it, with the call
taken off the queue; and a table word put there runs next. The second clause is the model's choice: which request a table
word stands for, and that `withFetchWord` is the host issuing it, are logs 3, 4 and 5, since no word of the spec selects an
operation. -/
def Obligations.StepRunsTheDecodedInstruction : Prop :=
  (∀ (s : State) (r : Request) (rest : List HostEvent) (i : Instr),
    s.pending = .call r :: rest → decode r = .ok i → step s = exec i { s with pending := rest }) ∧
  (∀ (s : State) (nbits w : Nat) (i : Instr),
    decodeTableWord nbits w = some i → step (s.withFetchWord nbits w) = exec i s)

/-- The frame of every instruction: parameters, ports and the queue are unchanged, exactly one result is added to what was
delivered, and a free value is drawn only by MAPR with `value = srcMin = srcMax` (20_memory.md, Access widths;
60_exceptions.md, Delivery of the error; the draw index is the model's, log 6). -/
def Obligations.ExecChangesOnlyWhatIsDelivered : Prop :=
  ∀ (i : Instr) (s t : State), exec i s = .next t →
    t.params = s.params ∧ t.ports = s.ports ∧ t.pending = s.pending ∧
    (∃ d : Delivery, t.delivered = s.delivered ++ [d]) ∧
    t.draws = if degenerate i then s.draws + 1 else s.draws

/-- A step serves one event: the parameters never change, the served event leaves the queue and the rest stays, and what
was delivered stays delivered. -/
def Obligations.StepServesOneEvent : Prop :=
  ∀ s t : State, step s = .next t →
    t.params = s.params ∧ t.pending = s.pending.tail ∧ s.delivered <+: t.delivered ∧
    t.delivered.length ≤ s.delivered.length + 1 ∧ s.draws ≤ t.draws

/-- Every event that the instance can serve completes, and no other does; with nothing pending the step changes nothing.
The model's choice, from the spec's decisions: that a request of a wrong length (log 13; 20_memory.md section 3, D9), an
absent mapper (log 14; D10) and a level that does not fit (log 15; D24) are refused, that MAPR with
`value = srcMin = srcMax` is served or refused by `MAP_DEGENERATE_SRC` (log 6; D14), and the idle step (log 2). -/
def Obligations.ExactlyServiceableEventsComplete : Prop :=
  (∀ (s : State) (e : HostEvent) (rest : List HostEvent), s.pending = e :: rest →
    ((∃ t, step s = .next t) ↔ HostEvent.serviceable s.params e = true)) ∧
  (∀ s : State, s.pending = [] → step s = .next s)

/-- A host that issues only events the instance can serve has a safe run of any length: no step is refused
(70_reset_and_hazards.md: every operation terminates). The model's choice: that a step past the end of the queue idles
(log 2), and that MAPR with `value = srcMin = srcMax`, which the spec tells the host not to issue, is serviceable where
`MAP_DEGENERATE_SRC` is "any value" (log 6; D14). -/
def Obligations.ServiceableRunsAreSafe : Prop :=
  ∀ (k : Nat) (s : State), (∀ e ∈ s.pending, HostEvent.serviceable s.params e = true) → s.SafeFor k

/-- An operation's result depends on its operands alone: in any two states of instances with the same parameters, whatever
was issued, delivered, drawn or driven before and whatever comes after, a call whose result the spec states delivers the
same result (20_memory.md, Ordering between operations). -/
def Obligations.ResultsDependOnOperandsOnly : Prop :=
  ∀ (s s' : State) (r : Request) (rest rest' : List HostEvent),
    s.pending = .call r :: rest → s'.pending = .call r :: rest' → s.params = s'.params →
    HostEvent.specified s.params (.call r) = true →
    ∃ d : Delivery, resultOf r = some d ∧
      step s = .next { s with pending := rest, delivered := s.delivered ++ [d] } ∧
      step s' = .next { s' with pending := rest', delivered := s'.delivered ++ [d] }

/-- 10_state.md R12: a MAPR that raises the error leaves nothing behind: the next event does exactly what it would have
done had the failing operation not been issued, but for the error standing before what it delivers. -/
def Obligations.ErrorLeavesNothingBehind : Prop :=
  ∀ (s : State) (v a b c d : Int) (e : HostEvent) (rest : List HostEvent), s.params.hasMapper = true →
    v < min a b ∨ max a b < v → s.pending = .call (.mapRange v a b c d) :: e :: rest →
    ∃ s1 : State, step s = .next s1 ∧
      (∀ t : State, step { s with pending := e :: rest } = .next t →
        ∃ new : List Delivery, t.delivered = s.delivered ++ new ∧
          step s1 = .next { t with delivered := s.delivered ++ [.mapped .outOfRangeError] ++ new }) ∧
      (∀ q : Refusal, step { s with pending := e :: rest } = .refused q → step s1 = .refused q)

/-- A run is the pointwise image of the host's calls: for every sequence of calls whose results the spec states, from every
state, as many steps as there are calls deliver exactly the results of the calls, in order, each a function of its own
operands, and change nothing else (00_scope.md, Agents; 70_reset_and_hazards.md, Runs). -/
def Obligations.RunIsThePointwiseImageOfTheCalls : Prop :=
  ∀ (rs : List Request) (s : State) (rest : List HostEvent), s.pending = rs.map HostEvent.call ++ rest →
    (∀ r ∈ rs, HostEvent.specified s.params (.call r) = true) →
    ∃ t : State, Sys2Proof.core.run rs.length s = .next t ∧
      t.delivered.map some = s.delivered.map some ++ rs.map resultOf ∧
      t.pending = rest ∧ t.params = s.params ∧ t.ports = s.ports ∧ t.draws = s.draws

/-- Every step keeps the invariant: mapper ports carry only `MAP_W`-bit levels, and none without a mapper; every azimuth
delivered lies in −90 to 165; mapper results come only from an instance with a mapper; a sampled `mapped` fits its port
(10_state.md, Data model and Ports). -/
def Obligations.StepKeepsTheInvariant : Prop :=
  ∀ s t : State, s.Inv → step s = .next t → t.Inv

/-- The invariant holds after reset. -/
def Obligations.ResetMeetsTheInvariant : Prop := State.reset.Inv

/-- After reset `HAS_MAPPER` and `MAP_W` are the spec's defaults (00_scope.md, Implementation parameters). That
`MAP_DEGENERATE_SRC` is "any value", no port is driven, nothing is pending and nothing was delivered is the model's choice
(logs 6, 8 and 24). -/
def Obligations.ResetStateHasTheDefaultParameters : Prop :=
  State.reset.params.hasMapper = true ∧ State.reset.params.mapW = 16 ∧
  State.reset.params.degenerateSrc = .anyValue ∧
  State.reset.pending = [] ∧ State.reset.delivered = [] ∧
  State.reset.ports.byte0 = none ∧ State.reset.ports.byte1 = none ∧ ∀ q : MapPort, State.reset.ports.mapper q = none
end

