-- ==== Sys2Proof/Laws/Decode.lean ====
section
/-! SUPPORT. The decoder's bit fields, and what decoding a request comes to. -/

namespace Sys2Proof

/-- The shift-and-mask of the source is the bit itself (40_decode_base.md R43). -/
theorem bitSet_eq_getLsbD (b : Byte) (i : Nat) : bitSet b i = b.getLsbD i := by
  have h : ((b >>> i) &&& 1#8) = if b.getLsbD i then 1#8 else 0#8 := by
    apply BitVec.eq_of_getLsbD_eq
    intro k hk
    rcases Nat.eq_zero_or_pos k with rfl | hpos
    · cases hb : b.getLsbD i <;> simp [hb]
    · have h1 : (1#8).getLsbD k = false := by simp [BitVec.getLsbD_one]; omega
      cases hb : b.getLsbD i <;> simp [h1]
  rw [bitSet, h]
  cases b.getLsbD i <;> decide

/-- `byte & 0b1111` is bits 3:0 (30_encoding.md R35). -/
theorem lowNibble_eq_extract (b : Byte) : lowNibble b = b.extractLsb' 0 4 := by
  revert b; decide

theorem lowNibble_toNat (b : Byte) : (lowNibble b).toNat = b.toNat % 16 := by
  revert b; decide

/-- A base byte is its fields put back together (30_encoding.md R31). -/
theorem baseByte_fields (b : Byte) :
    baseByte (bitSet b 7) (bitSet b 6) (reservedBits b) (lowNibble b) = b := by
  revert b; decide

/-- The fields of a base byte put together from fields. -/
theorem fields_baseByte (cw fire : Bool) (r : BitVec 2) (s : BitVec 4) :
    bitSet (baseByte cw fire r s) 7 = cw ∧ bitSet (baseByte cw fire r s) 6 = fire ∧
      reservedBits (baseByte cw fire r s) = r ∧ lowNibble (baseByte cw fire r s) = s := by
  revert cw fire r s; decide

/-- A request is decoded exactly when it carries its operation's number of bytes (20_memory.md R24). -/
theorem decode_ok_iff_exactLength (r : Request) : (∃ i, decode r = .ok i) ↔ r.exactLength = true := by
  rcases r with bs | bs | bs | _
  · rcases bs with _ | ⟨b, _ | ⟨b', bs⟩⟩ <;> simp [decode, Request.exactLength]
  · rcases bs with _ | ⟨b, _ | ⟨b', bs⟩⟩ <;> simp [decode, Request.exactLength]
  · rcases bs with _ | ⟨b, _ | ⟨b', _ | ⟨b'', bs⟩⟩⟩ <;> simp [decode, Request.exactLength]
  · simp [decode, Request.exactLength]

end Sys2Proof
end

