-- ==== Sys2Proof/Laws/Mapper.lean ====
section
/-! SUPPORT. What MAPR's operands come to, case by case. -/

namespace Sys2Proof.Machine

theorem outOfRange_iff (v a b : Int) : outOfRange v a b = true ↔ v < min a b ∨ max a b < v := by
  simp [outOfRange]

theorem outOfRange_false_iff (v a b : Int) : outOfRange v a b = false ↔ min a b ≤ v ∧ v ≤ max a b := by
  simp only [outOfRange, Bool.or_eq_false_iff, decide_eq_false_iff_not, Int.not_lt]

/-- The validation does not depend on the order of the source bounds (43_range_mapper.md R57). -/
theorem outOfRange_swap (v a b : Int) : outOfRange v a b = outOfRange v b a := by
  simp [outOfRange, Int.min_comm, Int.max_comm]

/-- Everything MAPR's contract can come to (43_range_mapper.md R55). -/
theorem mapOutcome_eq (v a b c d : Int) :
    mapOutcome v a b c d =
      if outOfRange v a b then .raise
      else if a = b then .unspecified
      else .value (c + ((v - a) * (d - c)).tdiv (b - a)) := by
  unfold mapOutcome mapOutcomeWith
  split
  · rfl
  · by_cases h : a = b <;> simp [mapQuotient, hardwareNumerics, hardwareRound, roundDiv, h]

theorem mapOutcome_raise_iff (v a b c d : Int) : mapOutcome v a b c d = .raise ↔ outOfRange v a b = true := by
  rw [mapOutcome_eq]
  cases h : outOfRange v a b
  · by_cases hab : a = b <;> simp [hab]
  · simp

theorem mapOutcome_value_iff (v a b c d z : Int) :
    mapOutcome v a b c d = .value z ↔
      outOfRange v a b = false ∧ a ≠ b ∧ z = c + ((v - a) * (d - c)).tdiv (b - a) := by
  rw [mapOutcome_eq]
  cases h : outOfRange v a b
  · by_cases hab : a = b
    · simp [hab]
    · simp [hab, eq_comm (b := z)]
  · simp

/-- The only unspecified operands are `value = srcMin = srcMax` (43_range_mapper.md R62, 60_exceptions.md R74). -/
theorem mapOutcome_unspecified_iff (v a b c d : Int) :
    mapOutcome v a b c d = .unspecified ↔ v = a ∧ a = b := by
  rw [mapOutcome_eq]
  split
  · rename_i h; rw [outOfRange_iff] at h; simp only [reduceCtorEq, false_iff]; omega
  · rename_i h; rw [Bool.not_eq_true, outOfRange_false_iff] at h
    split
    · simp only [true_iff]; omega
    · simp only [reduceCtorEq, false_iff]; omega

end Sys2Proof.Machine
end

