-- ==== Sys2Proof/Laws/State.lean ====
section
/-! SUPPORT. One lemma per field and update of State, true by rfl. -/

namespace Sys2Proof.Machine

section
variable (s : State) (d : Delivery) (x : Option Byte)

@[simp] theorem State.deliver_params : (s.deliver d).params = s.params := rfl
@[simp] theorem State.deliver_ports : (s.deliver d).ports = s.ports := rfl
@[simp] theorem State.deliver_pending : (s.deliver d).pending = s.pending := rfl
@[simp] theorem State.deliver_delivered : (s.deliver d).delivered = s.delivered ++ [d] := rfl
@[simp] theorem State.deliver_draws : (s.deliver d).draws = s.draws := rfl

@[simp] theorem State.advanceDraws_params : s.advanceDraws.params = s.params := rfl
@[simp] theorem State.advanceDraws_ports : s.advanceDraws.ports = s.ports := rfl
@[simp] theorem State.advanceDraws_pending : s.advanceDraws.pending = s.pending := rfl
@[simp] theorem State.advanceDraws_delivered : s.advanceDraws.delivered = s.delivered := rfl
@[simp] theorem State.advanceDraws_draws : s.advanceDraws.draws = s.draws + 1 := rfl

@[simp] theorem State.driveByte0_params : (s.driveByte0 x).params = s.params := rfl
@[simp] theorem State.driveByte0_byte0 : (s.driveByte0 x).ports.byte0 = x := rfl
@[simp] theorem State.driveByte0_byte1 : (s.driveByte0 x).ports.byte1 = s.ports.byte1 := rfl
@[simp] theorem State.driveByte0_mapper (port : MapPort) :
    (s.driveByte0 x).ports.mapper port = s.ports.mapper port := by cases port <;> rfl
@[simp] theorem State.driveByte0_pending : (s.driveByte0 x).pending = s.pending := rfl
@[simp] theorem State.driveByte0_delivered : (s.driveByte0 x).delivered = s.delivered := rfl
@[simp] theorem State.driveByte0_draws : (s.driveByte0 x).draws = s.draws := rfl

@[simp] theorem State.driveByte1_params : (s.driveByte1 x).params = s.params := rfl
@[simp] theorem State.driveByte1_byte0 : (s.driveByte1 x).ports.byte0 = s.ports.byte0 := rfl
@[simp] theorem State.driveByte1_byte1 : (s.driveByte1 x).ports.byte1 = x := rfl
@[simp] theorem State.driveByte1_mapper (port : MapPort) :
    (s.driveByte1 x).ports.mapper port = s.ports.mapper port := by cases port <;> rfl
@[simp] theorem State.driveByte1_pending : (s.driveByte1 x).pending = s.pending := rfl
@[simp] theorem State.driveByte1_delivered : (s.driveByte1 x).delivered = s.delivered := rfl
@[simp] theorem State.driveByte1_draws : (s.driveByte1 x).draws = s.draws := rfl

@[simp] theorem State.deliverFreeMapResult_params : s.deliverFreeMapResult.params = s.params := rfl
@[simp] theorem State.deliverFreeMapResult_ports : s.deliverFreeMapResult.ports = s.ports := rfl
@[simp] theorem State.deliverFreeMapResult_pending : s.deliverFreeMapResult.pending = s.pending := rfl
@[simp] theorem State.deliverFreeMapResult_delivered :
    s.deliverFreeMapResult.delivered = s.delivered ++ [.mapped (.ok (Config.freeMapResult s.draws))] := rfl
@[simp] theorem State.deliverFreeMapResult_draws : s.deliverFreeMapResult.draws = s.draws + 1 := rfl

@[simp] theorem State.sampleOutputs_params : s.sampleOutputs.params = s.params := rfl
@[simp] theorem State.sampleOutputs_ports : s.sampleOutputs.ports = s.ports := rfl
@[simp] theorem State.sampleOutputs_pending : s.sampleOutputs.pending = s.pending := rfl
@[simp] theorem State.sampleOutputs_delivered :
    s.sampleOutputs.delivered = s.delivered ++ [.sample s.outputs] := rfl
@[simp] theorem State.sampleOutputs_draws : s.sampleOutputs.draws = s.draws + 1 := rfl

@[simp] theorem State.withFetchWord_pending (nbits w : Nat) :
    (s.withFetchWord nbits w).pending = .call (tableRequest nbits w) :: s.pending := rfl

end

/-- A level put on a mapper port is read back there. -/
@[simp] theorem Ports.mapper_setMapper_self (p : Ports) (port : MapPort) (x : Option Int) :
    (p.setMapper port x).mapper port = x := by cases port <;> rfl

/-- A level put on a mapper port leaves the other mapper ports alone. -/
theorem Ports.mapper_setMapper_of_ne (p : Ports) {port port' : MapPort} (x : Option Int) (h : port' ≠ port) :
    (p.setMapper port x).mapper port' = p.mapper port' := by
  cases port <;> cases port' <;> first | rfl | exact absurd rfl h

@[simp] theorem Ports.setMapper_byte0 (p : Ports) (port : MapPort) (x : Option Int) :
    (p.setMapper port x).byte0 = p.byte0 := by cases port <;> rfl

@[simp] theorem Ports.setMapper_byte1 (p : Ports) (port : MapPort) (x : Option Int) :
    (p.setMapper port x).byte1 = p.byte1 := by cases port <;> rfl

end Sys2Proof.Machine
end

