-- ==== Sys2Proof/Laws/Step.lean ====
section
/-! SUPPORT. Everything an instruction, an event and a step can do. -/

namespace Sys2Proof.Machine

theorem step_of_nil {s : State} (h : s.pending = []) : step s = .next s := by simp [step, h, State.idle]

theorem step_of_cons {s : State} {e : HostEvent} {rest : List HostEvent} (h : s.pending = e :: rest) :
    step s = State.serve { s with pending := rest } e := by simp [step, h]

/-- Every way MAPR can end: the result its operands come to or, where that is unspecified, a free value or a refusal, as
the instance's `MAP_DEGENERATE_SRC` says (43_range_mapper.md R62, D14). -/
theorem deliverMap_cases (s : State) (o : MapOutcome) :
    (o ≠ .unspecified ∧ ∃ x, s.deliverMap o = .next (s.deliver (.mapped x))) ∨
      (o = .unspecified ∧ s.params.degenerateSrc = .anyValue ∧ s.deliverMap o = .next s.deliverFreeMapResult) ∨
      (o = .unspecified ∧ s.params.degenerateSrc = .refuse ∧ s.deliverMap o = .refused .degenerateSource) := by
  cases o with
  | raise => exact .inl ⟨nofun, _, rfl⟩
  | value z => exact .inl ⟨nofun, _, rfl⟩
  | unspecified => cases h : s.params.degenerateSrc <;> simp [State.deliverMap, State.deliverUnspecified, h]

/-- Everything an instruction can do: it delivers one result, drawing a free value or not, or MAPR is refused, for
want of a mapper or by `MAP_DEGENERATE_SRC`. -/
theorem exec_cases (i : Instr) (s : State) :
    (∃ d, exec i s = .next (s.deliver d)) ∨ exec i s = .next s.deliverFreeMapResult ∨
      exec i s = .refused .degenerateSource ∨ exec i s = .refused .mapperAbsent := by
  cases i with
  | dbase cw fire r sp => exact .inl ⟨_, rfl⟩
  | dazim raw => exact .inl ⟨_, rfl⟩
  | dcmd raw cw fire r sp => exact .inl ⟨_, rfl⟩
  | mapr v a b c d =>
    simp only [exec, execMapr]
    split
    · rcases deliverMap_cases s (mapOutcome v a b c d) with ⟨-, x, h⟩ | ⟨-, -, h⟩ | ⟨-, -, h⟩
      · exact .inl ⟨_, h⟩
      · exact .inr (.inl h)
      · exact .inr (.inr (.inl h))
    · exact .inr (.inr (.inr rfl))

/-- MAPR on an instance with a mapper (43_range_mapper.md R55). -/
theorem exec_mapr_of_hasMapper {s : State} (h : s.params.hasMapper = true) (v a b c d : Int) :
    exec (.mapr v a b c d) s = s.deliverMap (mapOutcome v a b c d) := by
  simp [exec, execMapr, h]

/-- Everything driving a mapper port can do. -/
theorem driveMapper_cases (s : State) (port : MapPort) (x : Option Int) :
    (s.params.hasMapper = true ∧ (∀ z, x = some z → fits s.params.mapW z = true) ∧
      s.driveMapper port x = .next { s with ports := s.ports.setMapper port x }) ∨
    (s.params.hasMapper = true ∧ ∃ z, x = some z ∧ fits s.params.mapW z = false ∧
      s.driveMapper port x = .refused (.notPresentable port z)) ∨
    (s.params.hasMapper = false ∧ s.driveMapper port x = .refused .mapperAbsent) := by
  unfold State.driveMapper
  cases hm : s.params.hasMapper
  · exact .inr (.inr ⟨rfl, by simp⟩)
  · rcases x with _ | z
    · exact .inl ⟨rfl, by simp, by simp⟩
    · cases hz : fits s.params.mapW z
      · exact .inr (.inl ⟨rfl, z, rfl, hz, by simp [hz]⟩)
      · exact .inl ⟨rfl, by simp [hz], by simp [hz]⟩

end Sys2Proof.Machine
end

