-- ==== Sys2Proof/Laws/Delivers.lean ====
section
/-! SUPPORT. What a call delivers, read off its instruction. -/

namespace Sys2Proof.Machine

/-- A state on which a call is pending: every claim about a delivery has one. -/
def callState (p : Params) (r : Request) : State := ⟨p, Ports.undriven, [.call r], [], 0⟩

/-- A call delivers at most one thing. -/
theorem Delivers.unique {p : Params} {r : Request} {d d' : Delivery} (h : Delivers p r d) (h' : Delivers p r d') :
    d = d' := by
  have e := (h (callState p r) [] rfl rfl).symm.trans (h' (callState p r) [] rfl rfl)
  simpa [callState] using e

/-- A call whose instruction has the stated effect on every state of the instance delivers it. -/
theorem delivers_of_exec {p : Params} {r : Request} {i : Instr} {d : Delivery} (hd : decode r = .ok i)
    (he : ∀ s : State, s.params = p → exec i s = .next (s.deliver d)) : Delivers p r d := by
  intro s rest hp hs
  rw [step_of_cons hs, State.serve, State.call, hd]
  exact he _ hp

/-- With the delivery known, another one is stated exactly when it is that one. -/
theorem Delivers.iff_eq {p : Params} {r : Request} {d d' : Delivery} (h : Delivers p r d) :
    Delivers p r d' ↔ d' = d := ⟨fun h' => h'.unique h, fun e => e ▸ h⟩

/-- A call of MAPR on an instance with a mapper delivers `x` exactly when its operands come to it. -/
theorem delivers_mapRange_iff {p : Params} (hm : p.hasMapper = true) (v a b c d : Int) (x : MapResult) :
    Delivers p (.mapRange v a b c d) (.mapped x) ↔
      match mapOutcome v a b c d with
      | .raise => x = .outOfRangeError
      | .value z => x = .ok z
      | .unspecified => False := by
  have hx : ∀ s : State, s.params = p →
      exec (.mapr v a b c d) s = s.deliverMap (mapOutcome v a b c d) := by
    rintro s rfl; exact exec_mapr_of_hasMapper hm v a b c d
  cases ho : mapOutcome v a b c d with
  | raise =>
    rw [(delivers_of_exec (p := p) (r := .mapRange v a b c d) (d := .mapped .outOfRangeError) rfl
      fun s hs => by rw [hx s hs, ho]; rfl).iff_eq]
    simp
  | value z =>
    rw [(delivers_of_exec (p := p) (r := .mapRange v a b c d) (d := .mapped (.ok z)) rfl
      fun s hs => by rw [hx s hs, ho]; rfl).iff_eq]
    simp
  | unspecified =>
    simp only [iff_false]
    intro h
    have e := h (callState p (.mapRange v a b c d)) [] rfl rfl
    rw [step_of_cons (e := .call (.mapRange v a b c d)) (rest := []) rfl, State.serve, State.call] at e
    simp only [decode] at e
    rw [hx _ rfl, ho] at e
    rcases deliverMap_cases { callState p (.mapRange v a b c d) with pending := [] } .unspecified with
      ⟨h, -⟩ | ⟨-, -, he⟩ | ⟨-, -, he⟩
    · exact absurd rfl h
    · rw [he] at e
      have e' := congrArg (fun o => match o with | .next t => t.draws | _ => 0) e
      simp [State.deliverFreeMapResult, callState] at e'
    · rw [he] at e
      cases e

end Sys2Proof.Machine
end

