-- ==== Sys2Proof/Laws/PerInstr.lean ====
section
/-! SUPPORT. Statements made instruction by instruction. -/

namespace Sys2Proof.Laws.EncodedLength

/-- What the encoder writes carries the number of bytes the operation takes (30_encoding.md R30). -/
def Statement (i : Instr) : Prop := (encode i).exactLength = true

theorem dbase (cw fire : Bool) (reserved : BitVec 2) (speed : BitVec 4) :
    Statement (.dbase cw fire reserved speed) := rfl

theorem dazim (raw : Byte) : Statement (.dazim raw) := rfl

theorem dcmd (raw : Byte) (cw fire : Bool) (reserved : BitVec 2) (speed : BitVec 4) :
    Statement (.dcmd raw cw fire reserved speed) := rfl

theorem mapr (value srcMin srcMax dstMin dstMax : Int) :
    Statement (.mapr value srcMin srcMax dstMin dstMax) := rfl

end Sys2Proof.Laws.EncodedLength
end

