-- ==== Sys2Proof/Tests/Slice0.lean ====
section
/-! SUPPORT. The model's own tests: the spec's worked examples (95_test_vectors.md), words written out from the formats,
the checks' refusals, and for each statement with hypotheses a state and operands that meet them. -/

namespace Sys2Proof.Machine.Tests

/-! ## Helpers -/

/-- The state an outcome goes on in. -/
def after : Host.Outcome State Fault Refusal → Option State
  | .next s => some s
  | .refused _ => none

/-- What one call from a fresh state delivers. -/
def result (r : Request) : Option (List Delivery) :=
  (after (step (callState Params.default r))).map State.delivered

/-- Why an event is refused in a fresh state with the given parameters. -/
def refusal (p : Params) (e : HostEvent) : Option Refusal :=
  match step { callState p (.mapRange 0 0 0 0 0) with pending := [e] } with
  | .next _ => none
  | .refused q => some q

/-- Both byte ports and the five mapper ports driven, a sample pending; the operands are those of vector M25. -/
def driven : State := ⟨Params.default, ⟨some 0xB4, some 0xC1, some 45, some 100, some 0, some 0, some 10⟩, [.sample], [], 0⟩

/-- The 1-byte base scheme: `byte1` driven, `byte0` not, a sample pending. -/
def halfDriven : State := ⟨Params.default, ⟨none, some 0xC1, some 45, none, some 0, none, some 10⟩, [.sample], [], 0⟩

/-- An instance without the mapper. -/
def bare : Params := ⟨false, 16, .anyValue⟩

/-- An instance that refuses MAPR's degenerate request, as the spec recommends (D14). -/
def refusing : Params := ⟨true, 16, .refuse⟩

/-! ## Smoke tests of WellFormed -/

theorem test_mapr_illFormed_without_mapper : (Instr.mapr 0 0 1 0 1).wellFormed bare = false := by decide
theorem test_mapr_wellFormed_with_mapper : (Instr.mapr 0 0 1 0 1).wellFormed Params.default = true := by decide
theorem test_mapr_unpresentable_operands :
    (Instr.mapr 32768 0 1 0 1).portPresentable Params.default = false ∧
    (Instr.mapr 0 (-32769) 1 0 1).portPresentable Params.default = false ∧
    (Instr.mapr 0 0 32768 0 1).portPresentable Params.default = false ∧
    (Instr.mapr 0 0 1 32768 1).portPresentable Params.default = false ∧
    (Instr.mapr 0 0 1 0 32768).portPresentable Params.default = false ∧
    (Instr.mapr 0 0 1 0 1).portPresentable bare = false := by decide
theorem test_mapr_presentable_extremes :
    (Instr.mapr 32767 (-32768) 32767 (-32768) 32767).portPresentable Params.default = true := by decide
theorem test_wrong_length_is_inexact :
    (Request.decodeBase []).exactLength = false ∧ (Request.decodeAzimuth [0, 0]).exactLength = false ∧
    (Request.decodeCommand [0]).exactLength = false := by decide

/-! ## Words written out from the formats (30_encoding.md R31 to R33) -/

/-- `cfrrssss` = 1 0 11 0111 (vector B16). -/
theorem test_decode_dbase : decode (.decodeBase [0b10110111#8]) = .ok (.dbase true false 0b11#2 0b0111#4) := by decide
/-- `aaaaaaaa`. -/
theorem test_decode_dazim : decode (.decodeAzimuth [0b10110100#8]) = .ok (.dazim 0b10110100#8) := by decide
/-- `aaaaaaaa` then `cfrrssss` = 0 1 10 0101, byte0 first. -/
theorem test_decode_dcmd :
    decode (.decodeCommand [0b00000001#8, 0b01100101#8]) = .ok (.dcmd 1#8 false true 0b10#2 0b0101#4) := by decide
theorem test_decode_mapr : decode (.mapRange 1 2 3 4 5) = .ok (.mapr 1 2 3 4 5) := by decide
/-- Table words: 8 bits a base byte, 16 bits a frame with byte0 in bits 15..8, none MAPR (logs 4, 5). -/
theorem test_decode_table_words :
    decodeTableWord 8 0xC1 = some (.dbase true true 0#2 1#4) ∧
    decodeTableWord 16 0xB4C1 = some (.dcmd 0xB4#8 true true 0#2 1#4) ∧
    decodeTableWord 0 0 = some (.mapr 0 0 0 0 0) := by decide
/-- No format has another number of bits (30_encoding.md R30). -/
theorem test_decode_table_words_of_no_format :
    decodeTableWord 7 0 = none ∧ decodeTableWord 17 0xB4C1 = none ∧ decodeTableWord 23 0xB4C1 = none ∧
    decodeTableWord 24 0xB4C1 = none := by decide
/-- The string `aaaaaaaacfrrssss` of D8: byte0 leftmost. -/
theorem test_frame_string : frameString 0xB4#8 0xC1#8 = 0xB4C1#16 := by decide

/-! ## Worked examples -/

/-- S5, B20. -/
theorem test_dbase : result (.decodeBase [0b11000001#8]) = some [.base ⟨true, 1, true⟩] ∧
    result (.decodeBase [0xF0#8]) = some [.base ⟨true, 0, true⟩] := by decide
/-- S6, B19. -/
theorem test_dbase_flags : result (.decodeBase [0b01001000#8]) = some [.base ⟨false, 8, true⟩] ∧
    result (.decodeBase [0xBF#8]) = some [.base ⟨true, 15, false⟩] := by decide
/-- S1, S2. -/
theorem test_dazim : result (.decodeAzimuth [0#8]) = some [.azimuth (-90)] ∧
    result (.decodeAzimuth [0b10110100#8]) = some [.azimuth 90] := by decide
/-- A7, A13: no sign bit, no clamp. -/
theorem test_dazim_high : result (.decodeAzimuth [0x80#8]) = some [.azimuth 38] ∧
    result (.decodeAzimuth [0xFF#8]) = some [.azimuth 165] := by decide
/-- S8 and, with the bytes exchanged, C6. -/
theorem test_dcmd : result (.decodeCommand [0x00#8, 0x80#8]) = some [.settings ⟨true, 0, false, -90⟩] ∧
    result (.decodeCommand [0x80#8, 0x00#8]) = some [.settings ⟨false, 0, false, 38⟩] := by decide
/-- C10, P4. -/
theorem test_dcmd_slip : result (.decodeCommand [0x2D#8, 0xF3#8]) = some [.settings ⟨true, 3, true, -45⟩] ∧
    result (.decodeCommand [0x81#8, 0x5A#8]) = some [.settings ⟨false, 10, true, 39⟩] := by decide
/-- S9, M17 (truncation, not floor), M25 (descending source), M27. -/
theorem test_mapr : result (.mapRange 50 0 100 0 10) = some [.mapped (.ok 5)] ∧
    result (.mapRange 55 0 100 10 0) = some [.mapped (.ok 5)] ∧
    result (.mapRange 45 100 0 0 10) = some [.mapped (.ok 5)] ∧
    result (.mapRange 5 10 0 0 (-3)) = some [.mapped (.ok (-1))] := by decide
/-- S14, E5, E12 (degenerate source, value differs), E3 (bound included). -/
theorem test_mapr_error : result (.mapRange 1000 0 100 0 10) = some [.mapped .outOfRangeError] ∧
    result (.mapRange 101 100 0 0 10) = some [.mapped .outOfRangeError] ∧
    result (.mapRange 6 5 5 0 10) = some [.mapped .outOfRangeError] ∧
    result (.mapRange 100 0 100 0 10) = some [.mapped (.ok 10)] := by decide
/-- M38 and M39 through the 16-bit datapath. -/
theorem test_mapper_ports :
    (mapperOut (0#16) (-32768) 32767 32767 (-32768)).mapped = some (-1) ∧
    (mapperOut (12345#16) (-32768) 32767 32767 (-32768)).mapped = some (-12346) ∧
    (mapperOut (91#16) (-90) 90 0 180) = ⟨none, true⟩ ∧ (mapperOut (5#16) 5 5 0 10) = ⟨none, false⟩ := by decide
/-- The host that drives both byte ports and samples (A9, C4; M25). -/
theorem test_sample : driven.outputs = ⟨true, true, 1, 0x05A, some ⟨5, false⟩⟩ := by decide
/-- The alternative rounding: the rejected reading of M17. -/
theorem test_floor_alternative : mapOutcomeWith .exact .floor 55 0 100 10 0 = .value 4 := by decide
/-- R90: both forms of both columns. -/
theorem test_read_lines :
    readLine ['D', 'B', 'A', 'S', 'E', ' ', '0', 'b', '1', '1', '0', '0', '0', '0', '0', '1'] =
      some (.decodeBase [0xC1#8]) ∧
    readLine ['D', 'C', 'M', 'D', ' ', '0', 'x', 'B', '4', ',', ' ', '1', '9', '3'] =
      some (.decodeCommand [0xB4#8, 0xC1#8]) ∧
    readLine ['m', 'a', 'p', 'R', 'a', 'n', 'g', 'e', '(', '5', ',', '-', '9', ',', '9', ',', '0', ',', '1', '8', ')'] =
      some (.mapRange 5 (-9) 9 0 18) ∧
    readLine ['d', 'e', 'c', 'o', 'd', 'e', 'C', 'o', 'm', 'm', 'a', 'n', 'd', '(', '[', '0', ',', '2', '5', '6', ']', ')'] =
      none := by decide

/-! ## Witnesses: the hypotheses of each statement are met together -/

theorem delivers_base : Delivers Params.default (.decodeBase [0xB7#8]) (.base ⟨true, 7, false⟩) :=
  delivers_of_exec rfl fun _ _ => rfl
theorem delivers_azimuth : Delivers Params.default (.decodeAzimuth [0#8]) (.azimuth (-90)) :=
  delivers_of_exec rfl fun _ _ => rfl
theorem delivers_azimuth_top : Delivers Params.default (.decodeAzimuth [255#8]) (.azimuth 165) :=
  delivers_of_exec rfl fun _ _ => rfl
theorem delivers_command (b1 : Byte) (h : b1 = 0x80#8 ∨ b1 = 0xB0#8) :
    Delivers Params.default (.decodeCommand [0#8, b1]) (.settings ⟨true, 0, false, -90⟩) := by
  rcases h with rfl | rfl <;> exact delivers_of_exec rfl fun _ _ => rfl
theorem delivers_error : Delivers Params.default (.mapRange 101 0 100 0 10) (.mapped .outOfRangeError) :=
  (delivers_mapRange_iff rfl ..).2 (by rw [show mapOutcome 101 0 100 0 10 = .raise by decide])
theorem delivers_mapped : Delivers Params.default (.mapRange 45 100 0 0 10) (.mapped (.ok 5)) :=
  (delivers_mapRange_iff rfl ..).2 (by rw [show mapOutcome 45 100 0 0 10 = .value 5 by decide])

/-- DbaseIgnoresReservedBits, DbaseHasFourPreimages. -/
theorem witness_reserved_bits : Delivers Params.default (.decodeBase [0xB7#8]) (.base ⟨true, 7, false⟩) ∧ 3 < 4 :=
  ⟨delivers_base, by decide⟩
/-- DbaseEachResultBitIsOneInputBit: each clause at the ends of its range. -/
theorem witness_each_bit : result (.decodeBase [0#8 ^^^ (1#8 <<< 7)]) = some [.base ⟨true, 0, false⟩] ∧
    result (.decodeBase [0#8 ^^^ (1#8 <<< 6)]) = some [.base ⟨false, 0, true⟩] ∧
    result (.decodeBase [0#8 ^^^ (1#8 <<< 4)]) = some [.base ⟨false, 0, false⟩] ∧
    result (.decodeBase [0#8 ^^^ (1#8 <<< 3)]) = some [.base ⟨false, 8, false⟩] ∧
    result (.decodeBase [0#8 ^^^ (1#8 <<< 0)]) = some [.base ⟨false, 1, false⟩] := by decide
/-- DazimArithmeticLaw: two bytes in order with their azimuths, at both ends of the range. -/
theorem witness_azimuth_order : Delivers Params.default (.decodeAzimuth [0#8]) (.azimuth (-90)) ∧
    Delivers Params.default (.decodeAzimuth [255#8]) (.azimuth 165) ∧ (0#8).toNat < (255#8).toNat :=
  ⟨delivers_azimuth, delivers_azimuth_top, by decide⟩
/-- DazimPassesWideAzimuthsOn. -/
theorem witness_wide_azimuth : 181 ≤ (181#8).toNat ∧ Params.default.hasMapper = true := by decide
/-- DcmdIsTheTwoDecodesCombined. -/
theorem witness_two_decodes : Delivers Params.default (.decodeAzimuth [0#8]) (.azimuth (-90)) ∧
    Delivers Params.default (.decodeBase [0xB7#8]) (.base ⟨true, 7, false⟩) ∧
    Delivers Params.default (.decodeCommand [0#8, 0x80#8]) (.settings ⟨true, 0, false, -90⟩) ∧
    Delivers Params.default (.decodeCommand [0#8, 0xB0#8]) (.settings ⟨true, 0, false, -90⟩) :=
  ⟨delivers_azimuth, delivers_base, delivers_command _ (.inl rfl), delivers_command _ (.inr rfl)⟩
/-- DecodeOperationsRaiseNoError. -/
theorem witness_decode_request : Request.decodeBase [0#8] = .decodeBase [0#8] ∨
    Request.decodeBase [0#8] = .decodeAzimuth [0#8] ∨ Request.decodeBase [0#8] = .decodeCommand [0#8, 0#8] := by decide
/-- WrongFrameLengthIsRefused: one byte too few and one too many, of each operation. -/
theorem witness_wrong_length :
    refusal Params.default (.call (.decodeBase [])) = some (.malformedRequest (.wrongLength 1 0)) ∧
    refusal Params.default (.call (.decodeAzimuth [1, 2])) = some (.malformedRequest (.wrongLength 1 2)) ∧
    refusal Params.default (.call (.decodeCommand [1])) = some (.malformedRequest (.wrongLength 2 1)) ∧
    refusal Params.default (.call (.decodeCommand [1, 2, 3])) = some (.malformedRequest (.wrongLength 2 3)) := by decide
/-- MaprExecDeliversScaledValueOrError, MaprRaisesExactlyOutsideTheBounds: each clause at the bounds, on the reset state. -/
theorem witness_mapr_bounds : State.reset.params.hasMapper = true ∧
    ((101 : Int) < min 0 100 ∨ max 0 100 < (101 : Int)) ∧ ((-1 : Int) < min 0 100 ∨ max 0 100 < (-1 : Int)) ∧
    (min 0 100 ≤ (100 : Int) ∧ (100 : Int) ≤ max 0 100) ∧ (min 0 100 ≤ (0 : Int) ∧ (0 : Int) ≤ max 0 100) ∧
    (0 : Int) ≠ 100 := by decide
/-- MaprDegenerateSourceDeliversSomeValue, MaprRaisesNoOtherError: E14 completes. -/
theorem witness_mapr_degenerate : State.reset.params.hasMapper = true ∧ State.reset.params.degenerateSrc = .anyValue ∧
    (after (exec (.mapr 5 5 5 0 10) State.reset)).isSome = true := by decide
/-- MaprDegenerateSourceRefused: E14 where the spec's recommendation is taken; E12 and M29 complete there. -/
theorem witness_mapr_refusing : refusing.hasMapper = true ∧ refusing.degenerateSrc = .refuse ∧
    refusal refusing (.call (.mapRange 5 5 5 0 10)) = some .degenerateSource ∧
    refusal refusing (.call (.mapRange 6 5 5 0 10)) = none ∧ refusal refusing (.call (.mapRange 7 0 10 5 5)) = none := by
  decide
/-- MaprErrorComesBeforeDegenerateSource, MaprRaisesNoOtherError: E12, E14, M29. -/
theorem witness_mapr_degenerate_order : (6 : Int) ≠ 5 ∧ ¬((6 : Int) = 5 ∧ (5 : Int) = 5) ∧ min 5 5 ≤ (5 : Int) ∧
    (5 : Int) ≤ max 5 5 ∧ result (.mapRange 6 5 5 0 10) = some [.mapped .outOfRangeError] ∧
    result (.mapRange 7 0 10 5 5) = some [.mapped (.ok 5)] := by decide
/-- MaprGuarantees: two accepted values in order, with spans of the same and of opposite signs. -/
theorem witness_mapr_guarantees : (0 : Int) ≠ 100 ∧ (45 : Int) ≤ 55 ∧
    result (.mapRange 45 0 100 0 10) = some [.mapped (.ok 4)] ∧
    result (.mapRange 55 0 100 0 10) = some [.mapped (.ok 5)] ∧
    (0 : Int) < (10 - 0) * (100 - 0) ∧ (0 - 10 : Int) * (100 - 0) < 0 ∧ ((5 : Int) = 5) := by decide
/-- MaprDescendingSourceRunsTheOtherWay, MaprRaisesExactlyOutsideTheBounds, OutOfRangePortIgnoresDestinationPorts. -/
theorem witness_descending_source : Params.default.hasMapper = true ∧ (0 : Int) < 100 ∧
    Delivers Params.default (.mapRange 45 100 0 0 10) (.mapped (.ok 5)) ∧
    Delivers Params.default (.mapRange 101 0 100 0 10) (.mapped .outOfRangeError) :=
  ⟨rfl, by decide, delivers_mapped, delivers_error⟩
/-- MaprDegenerateDestinationIsConstant and MaprDescendingDestinationTruncates (M29, M17, M22). -/
theorem witness_destinations : (0 : Int) ≠ 10 ∧ min 0 10 ≤ (7 : Int) ∧ (7 : Int) ≤ max 0 10 ∧ (0 : Int) < 10 ∧
    ((0 : Int) ≤ 10 ∨ ((100 : Int) - 0) ∣ (55 - 0) * (10 - 0)) ∧
    ((10 : Int) ≤ 0 ∨ ((100 : Int) - 0) ∣ (50 - 0) * (0 - 10)) := by decide
/-- MapperPortsComputeMapr: a value at the end of the port's range. -/
theorem witness_mapper_value :
    mapOutcome (7#4).toInt (-8#4).toInt (7#4).toInt (-8#4).toInt (7#4).toInt = .value 7 := by decide
/-- SampledMapperOutputsAgreeWithMapr, SampledDecoderPortsAgreeWithDcmd, OutOfRangePortIgnoresDestinationPorts. -/
theorem witness_driven_ports : driven.params.hasMapper = true ∧
    (fits driven.params.mapW 45 && fits driven.params.mapW 100 && fits driven.params.mapW 0 && fits driven.params.mapW 10)
      = true ∧ driven.ports.value = some 45 ∧ driven.ports.srcMin = some 100 ∧ driven.ports.srcMax = some 0 ∧
    driven.ports.dstMin = some 0 ∧ driven.ports.dstMax = some 10 ∧ driven.ports.byte0 = some 0xB4#8 ∧
    driven.ports.byte1 = some 0xC1#8 ∧ driven.pending = .sample :: [] := by decide
/-- MaprServoUse: the ends of both ranges. -/
theorem witness_servo : result (.mapRange (-90) (-90) 90 0 180) = some [.mapped (.ok 0)] ∧
    result (.mapRange 90 (-90) 90 0 180) = some [.mapped (.ok 180)] ∧
    result (.mapRange 91 (-90) 90 0 180) = some [.mapped .outOfRangeError] ∧
    result (.mapRange 165 (-90) 90 0 180) = some [.mapped .outOfRangeError] := by decide
/-- MaprAbsentIsRefused, and the same for a mapper port; PortEventsTouchOnePort's refusals. -/
theorem witness_absent_mapper : bare.hasMapper = false ∧
    refusal bare (.call (.mapRange 1 0 2 0 2)) = some .mapperAbsent ∧
    refusal bare (.driveMapper .value (some 1)) = some .mapperAbsent ∧
    refusal Params.default (.driveMapper .dstMax (some 32768)) = some (.notPresentable .dstMax 32768) := by decide
/-- FloatAlternativeAgreesAtScaleOne: binary64 at the azimuth use. -/
theorem witness_scale_one : 1 ≤ FloatFormat.binary64.precision ∧ FloatFormat.binary64.minExp ≤ 0 ∧
    (FloatFormat.binary64.precision : Int) ≤ FloatFormat.binary64.maxExp + 1 ∧ (-90 : Int) ≠ 90 ∧
    (180 : Int) - 0 = 90 - -90 ∧ ((90 : Int) - -90).natAbs < 2 ^ FloatFormat.binary64.precision ∧
    mapOutcomeWith (.float2 .binary64) .trunc 45 (-90) 90 0 180 = .value 135 := by decide
/-- AzimuthPortPattern: the clauses' landmarks. -/
theorem witness_azimuth_port : driven.ports.byte0 = some 180#8 ∧
    ({ driven.ports with byte0 := some 0#8 } : Ports).byte0 = some 0#8 ∧
    ({ driven.ports with byte0 := some 89#8 } : Ports).byte0 = some 89#8 ∧
    ({ driven.ports with byte0 := some 90#8 } : Ports).byte0 = some 90#8 ∧
    ({ driven.ports with byte0 := some 255#8 } : Ports).byte0 = some 255#8 := by decide
/-- DecoderPortHalvesAreIndependent, PortEventsTouchOnePort: each port event completes. -/
theorem witness_port_events :
    (after (step { driven with pending := [.driveByte0 (some 1)] })).map (fun t => t.ports.byte0) = some (some 1#8) ∧
    (after (step { driven with pending := [.driveByte1 none] })).map (fun t => t.ports.byte1) = some none ∧
    (after (step { driven with pending := [.driveMapper .value (some 32767)] })).map (fun t => t.ports.value)
      = some (some 32767) ∧
    (after (step { driven with pending := [.driveMapper .value none] })).map (fun t => t.ports.value) = some none := by
  decide
/-- PortEventsTouchOnePort, BaseSchemeReadsByte1Alone: a sample with `byte0` and two mapper ports undriven. -/
theorem witness_half_driven : halfDriven.ports.byte1 = some 0xC1#8 ∧ halfDriven.ports.byte0 = none ∧
    halfDriven.pending = .sample :: [] ∧ (after (step halfDriven)).map State.ports = some halfDriven.ports ∧
    result (.decodeBase [0xC1]) = some [.base ⟨true, 1, true⟩] := by decide
/-- DecoderPortHalvesAreIndependent: two states that agree on the byte ports and differ elsewhere. -/
theorem witness_port_halves : driven.ports.byte0 = some 0xB4#8 ∧ driven.ports.byte1 = some 0xC1#8 ∧
    ({ driven with draws := 9, delivered := [.azimuth 0] } : State).ports.byte0 = some 0xB4#8 ∧
    ({ driven with draws := 9, delivered := [.azimuth 0] } : State).ports.byte1 = some 0xC1#8 := by decide
/-- DecodeAndEncodeAgree. -/
theorem witness_exact_length : (Request.decodeCommand [1, 2]).exactLength = true := by decide
/-- FrameStringNotation: the ends of the range of `k`. -/
theorem witness_frame_bits : (0 < 8) ∧ (7 < 8) ∧ (frameString 0x80#8 0x01#8).getLsbD 15 = true ∧
    (frameString 0x80#8 0x01#8).getLsbD 0 = true := by decide
/-- StepRunsTheDecodedInstruction: both clauses. -/
theorem witness_decoded_call : (callState Params.default (.decodeBase [0xC1])).pending = .call (.decodeBase [0xC1]) :: [] ∧
    decode (.decodeBase [0xC1]) = .ok (.dbase true true 0#2 1#4) ∧
    decodeTableWord 8 0xC1 = some (.dbase true true 0#2 1#4) ∧
    (after (step (State.reset.withFetchWord 16 0xB4C1))).map State.delivered = some [.settings ⟨true, 1, true, 90⟩] := by
  decide
/-- ExecChangesOnlyWhatIsDelivered, for a form that draws a free value and one that does not. -/
theorem witness_exec_next : (after (exec (.mapr 5 5 5 0 10) State.reset)).map State.draws = some 1 ∧
    (after (exec (.mapr 5 0 5 0 10) State.reset)).map State.draws = some 0 := by decide
/-- StepServesOneEvent, StepKeepsTheInvariant: a state that meets the invariant and takes a step that keeps it. -/
theorem witness_invariant : driven.Inv ∧ (after (step driven)).isSome = true := ⟨⟨by decide, by simp [driven]⟩, by decide⟩
/-- ExactlyServiceableEventsComplete: an event of either kind, and nothing pending. -/
theorem witness_serviceable : HostEvent.serviceable Params.default .sample = true ∧
    HostEvent.serviceable Params.default (.call (.decodeCommand [1])) = false ∧
    HostEvent.serviceable Params.default (.call (.mapRange 5 5 5 0 10)) = true ∧
    HostEvent.serviceable refusing (.call (.mapRange 5 5 5 0 10)) = false ∧
    HostEvent.serviceable refusing (.call (.mapRange 6 5 5 0 10)) = true ∧ State.reset.pending = [] := by decide
/-- ServiceableRunsAreSafe, ResultsDependOnOperandsOnly, RunIsThePointwiseImageOfTheCalls: pending calls whose results the
spec states, an error among them, on two states that differ in all but the parameters. -/
theorem witness_specified_calls :
    (∀ r ∈ [Request.mapRange 1000 0 100 0 10, .decodeBase [7]], HostEvent.specified driven.params (.call r) = true) ∧
    (∀ e ∈ driven.pending, HostEvent.serviceable driven.params e = true) ∧
    ({ driven with pending := [.call (.mapRange 1000 0 100 0 10), .call (.decodeBase [7])] } : State).pending =
      [Request.mapRange 1000 0 100 0 10, .decodeBase [7]].map HostEvent.call ++ [] ∧
    driven.params = State.reset.params ∧ driven.ports ≠ State.reset.ports := by decide
/-- ErrorLeavesNothingBehind: the error, then an event that completes, or one that is refused. -/
theorem witness_after_error : Params.default.hasMapper = true ∧ max 0 100 < (1000 : Int) ∧
    (State.issue (callState Params.default (.decodeAzimuth [90])) (.mapRange 1000 0 100 0 10)).pending =
      .call (.mapRange 1000 0 100 0 10) :: .call (.decodeAzimuth [90]) :: [] ∧
    result (.decodeAzimuth [90]) = some [.azimuth 0] ∧
    refusal Params.default (.call (.decodeAzimuth [])) = some (.malformedRequest (.wrongLength 1 0)) := by decide

end Sys2Proof.Machine.Tests
end

section
/-! What an event does is blind to what was delivered before it (10_state.md R12): the history of deliveries is only
appended to. -/

namespace Sys2Proof.Machine

/-- At `s` the transition `f` never looks at what was delivered before: on every history it appends the same deliveries
and otherwise reaches the same state, or it is refused for the same reason. -/
def IgnoresHistory (f : State → Host.Outcome State Fault Refusal) (s : State) : Prop :=
  (∃ (t : State) (new : List Delivery), ∀ history : List Delivery,
      f { s with delivered := history } = .next { t with delivered := history ++ new }) ∨
    ∃ q : Refusal, ∀ history : List Delivery, f { s with delivered := history } = .refused q

/-- A transition that completes and ignores the history appends to it, and does the same on any other history. -/
theorem IgnoresHistory.next {f : State → Host.Outcome State Fault Refusal} {s t : State} (h : IgnoresHistory f s)
    (ht : f s = .next t) :
    ∃ new : List Delivery, t.delivered = s.delivered ++ new ∧
      ∀ history, f { s with delivered := history } = .next { t with delivered := history ++ new } := by
  obtain ⟨u, new, hu⟩ | ⟨q, hq⟩ := h
  · obtain rfl : t = { u with delivered := s.delivered ++ new } := by
      simpa using ht.symm.trans (hu s.delivered)
    exact ⟨new, rfl, hu⟩
  · cases ht.symm.trans (hq s.delivered)

/-- A transition that is refused and ignores the history is refused for the same reason on any other history. -/
theorem IgnoresHistory.refused {f : State → Host.Outcome State Fault Refusal} {s : State} {q : Refusal}
    (h : IgnoresHistory f s) (hq : f s = .refused q) (history : List Delivery) :
    f { s with delivered := history } = .refused q := by
  obtain ⟨u, new, hu⟩ | ⟨q', hq'⟩ := h
  · cases hq.symm.trans (hu s.delivered)
  · rw [hq' history, ← hq' s.delivered]; exact hq

theorem deliverMap_ignoresHistory (o : MapOutcome) (s : State) : IgnoresHistory (·.deliverMap o) s := by
  cases o with
  | raise => exact .inl ⟨s, [_], fun _ => rfl⟩
  | value z => exact .inl ⟨s, [_], fun _ => rfl⟩
  | unspecified =>
    cases hd : s.params.degenerateSrc with
    | anyValue =>
      exact .inl ⟨s.advanceDraws, [.mapped (.ok (Config.freeMapResult s.draws))], fun _ => by
        simp only [State.deliverMap, State.deliverUnspecified, hd]; rfl⟩
    | refuse => exact .inr ⟨.degenerateSource, fun _ => by simp only [State.deliverMap, State.deliverUnspecified, hd]⟩

theorem exec_ignoresHistory (i : Instr) (s : State) : IgnoresHistory (exec i) s := by
  cases i with
  | dbase cw fire r sp => exact .inl ⟨s, [_], fun _ => rfl⟩
  | dazim raw => exact .inl ⟨s, [_], fun _ => rfl⟩
  | dcmd raw cw fire r sp => exact .inl ⟨s, [_], fun _ => rfl⟩
  | mapr v a b c d =>
    cases hm : s.params.hasMapper with
    | false => exact .inr ⟨.mapperAbsent, fun _ => by simp [exec, execMapr, hm]⟩
    | true =>
      simpa [IgnoresHistory, exec_mapr_of_hasMapper, hm] using deliverMap_ignoresHistory (mapOutcome v a b c d) s

theorem call_ignoresHistory (r : Request) (s : State) : IgnoresHistory (·.call r) s := by
  cases hr : decode r with
  | ok i => simpa only [IgnoresHistory, State.call, hr] using exec_ignoresHistory i s
  | error e => exact .inr ⟨.malformedRequest e, fun _ => by simp only [State.call, hr]⟩

theorem driveMapper_ignoresHistory (port : MapPort) (x : Option Int) (s : State) :
    IgnoresHistory (·.driveMapper port x) s := by
  cases hm : s.params.hasMapper with
  | false => exact .inr ⟨.mapperAbsent, fun _ => by simp [State.driveMapper, hm]⟩
  | true =>
    cases x with
    | none =>
      exact .inl ⟨{ s with ports := s.ports.setMapper port none }, [], fun _ => by simp [State.driveMapper, hm]⟩
    | some z =>
      cases hz : fits s.params.mapW z with
      | false => exact .inr ⟨.notPresentable port z, fun _ => by simp [State.driveMapper, hm, hz]⟩
      | true =>
        exact .inl ⟨{ s with ports := s.ports.setMapper port (some z) }, [],
          fun _ => by simp [State.driveMapper, hm, hz]⟩

theorem serve_ignoresHistory (e : HostEvent) (s : State) : IgnoresHistory (·.serve e) s := by
  cases e with
  | call r => exact call_ignoresHistory r s
  | driveByte0 x => exact .inl ⟨s.driveByte0 x, [], fun _ => by simp [State.serve, State.driveByte0]⟩
  | driveByte1 x => exact .inl ⟨s.driveByte1 x, [], fun _ => by simp [State.serve, State.driveByte1]⟩
  | driveMapper port x => exact driveMapper_ignoresHistory port x s
  | sample => exact .inl ⟨s.advanceDraws, [.sample s.outputs], fun _ => rfl⟩

theorem step_ignoresHistory (s : State) : IgnoresHistory step s := by
  cases hs : s.pending with
  | nil => exact .inl ⟨s, [], fun _ => by simp [step_of_nil, hs]⟩
  | cons e rest =>
    simpa only [IgnoresHistory, step, hs] using serve_ignoresHistory e { s with pending := rest }

/-- MAPR with `value` outside the source bounds delivers the error and does nothing else (43_range_mapper.md R57). -/
theorem delivers_outOfRangeError {p : Params} (hm : p.hasMapper = true) {v a b : Int}
    (hv : v < min a b ∨ max a b < v) (c d : Int) :
    Delivers p (.mapRange v a b c d) (.mapped .outOfRangeError) := by
  have ho : mapOutcome v a b c d = .raise := (mapOutcome_raise_iff ..).2 ((outOfRange_iff ..).2 hv)
  rw [delivers_mapRange_iff hm, ho]

/-- Settles O47: the failing MAPR only adds the error to the history of deliveries, which the next step ignores. -/
theorem errorLeavesNothingBehind : Obligations.ErrorLeavesNothingBehind := by
  unfold Obligations.ErrorLeavesNothingBehind
  intro s v a b c d e rest hm hv hs
  have hnext : IgnoresHistory step { s with pending := e :: rest } := step_ignoresHistory _
  refine ⟨{ s with pending := e :: rest, delivered := s.delivered ++ [.mapped .outOfRangeError] },
    delivers_outOfRangeError hm hv c d s (e :: rest) rfl hs, fun t ht => ?_, fun q hq => hnext.refused hq _⟩
  obtain ⟨new, htd, hnew⟩ := hnext.next ht
  exact ⟨new, htd, hnew _⟩

end Sys2Proof.Machine
end

section
/-! DBASE reads bits 7, 6 and 3:0 of its byte and nothing else (30_encoding.md R37): its settings depend on the byte
only through `b & 0b11001111`. -/

namespace Sys2Proof

/-- A mask that keeps bit `i` keeps what the decoder reads there. -/
theorem bitSet_and {m : Byte} {i : Nat} (hm : m.getLsbD i = true) (b : Byte) : bitSet (b &&& m) i = bitSet b i := by
  simp [bitSet_eq_getLsbD, hm]

/-- A mask that keeps bits 3:0 keeps the nibble. -/
theorem lowNibble_and {m : Byte} (hm : m &&& 0b1111#8 = 0b1111#8) (b : Byte) :
    lowNibble (b &&& m) = lowNibble b := by
  rw [lowNibble, BitVec.and_assoc, hm, lowNibble]

/-- Whatever is put into the reserved bits is masked away. -/
theorem withReserved_and (b : Byte) {r : Nat} (hr : r < 4) :
    ((b &&& 0b11001111#8) ||| (BitVec.ofNat 8 r <<< 4)) &&& 0b11001111#8 = b &&& 0b11001111#8 := by
  have hreserved : (BitVec.ofNat 8 r <<< 4) &&& 0b11001111#8 = 0#8 := by
    revert r; decide
  rw [BitVec.and_or_distrib_right, hreserved, BitVec.or_zero, BitVec.and_assoc, BitVec.and_self]

end Sys2Proof

namespace Sys2Proof.Machine

/-- The settings that DBASE reads off a byte. -/
def baseSettings (b : Byte) : BaseSettings := baseSettingsOf (bitSet b 7) (bitSet b 6) (lowNibble b)

/-- A call of DBASE on one byte delivers the settings of the byte, whatever the parameters (40_decode_base.md R40). -/
theorem delivers_decodeBase (p : Params) (b : Byte) : Delivers p (.decodeBase [b]) (.base (baseSettings b)) :=
  delivers_of_exec (i := readBase b) rfl fun _ _ => rfl

/-- The mask that clears the reserved bits keeps every bit the settings are read from. -/
theorem baseSettings_and_unreserved (b : Byte) : baseSettings (b &&& 0b11001111#8) = baseSettings b := by
  simp only [baseSettings, bitSet_and (m := 0b11001111#8) (i := 7) rfl, bitSet_and (m := 0b11001111#8) (i := 6) rfl,
    lowNibble_and (m := 0b11001111#8) rfl]

/-- Bytes that differ in the reserved bits alone deliver the same settings. -/
theorem delivers_decodeBase_of_and_eq (p : Params) {b b' : Byte} (h : b' &&& 0b11001111#8 = b &&& 0b11001111#8) :
    Delivers p (.decodeBase [b']) (.base (baseSettings b)) := by
  rw [← baseSettings_and_unreserved b, ← h, baseSettings_and_unreserved b']
  exact delivers_decodeBase p b'

/-- Settles O6: the byte, the byte with its reserved bits cleared and the byte with any value put there all agree under the
mask that clears those bits. -/
theorem dbaseIgnoresReservedBits : Obligations.DbaseIgnoresReservedBits := by
  unfold Obligations.DbaseIgnoresReservedBits
  intro p b
  refine ⟨baseSettings b, delivers_decodeBase p b, delivers_decodeBase_of_and_eq p ?_, fun r hr => ?_⟩
  · rw [BitVec.and_assoc, BitVec.and_self]
  · exact delivers_decodeBase_of_and_eq p (withReserved_and b hr)

end Sys2Proof.Machine
end

section
/-! DBASE's settings as the source's shifts and masks (40_decode_base.md R40). -/

namespace Sys2Proof

/-- Cutting the masked byte to 4 bits loses nothing: the mask `0b1111` leaves the remainder modulo 16. -/
theorem lowNibble_toNat_eq_toNat_and (b : Byte) : (lowNibble b).toNat = (b &&& 0b1111#8).toNat := by
  have hmask : (b &&& 0b1111#8).toNat = b.toNat % 16 := by
    rw [BitVec.toNat_and]
    exact Nat.and_two_pow_sub_one_eq_mod b.toNat 4
  rw [lowNibble_toNat, hmask]

end Sys2Proof

namespace Sys2Proof.Machine

/-- Settles O4: the two flags are the decoder's shift-and-mask tests themselves, and the speed is the masked byte, which
its 4 bits hold in full. -/
theorem dbaseDeliversShiftAndMask : Obligations.DbaseDeliversShiftAndMask := by
  unfold Obligations.DbaseDeliversShiftAndMask
  intro p b
  have hspeed : (baseSettings b).speed.val = (b &&& 0b1111#8).toNat := lowNibble_toNat_eq_toNat_and b
  exact ⟨baseSettings b, delivers_decodeBase p b, rfl, rfl, hspeed⟩

end Sys2Proof.Machine
end

section
/-! DAZIM subtracts 90 from its byte and neither clamps nor rejects what comes of it (41_decode_azimuth.md R45, R47). -/

namespace Sys2Proof.Machine

/-- The azimuth of a byte lies between those of the bytes 0 and 255 (41_decode_azimuth.md R45). -/
theorem azimuthOf_bounds (b : Byte) : -90 ≤ azimuthOf b ∧ azimuthOf b ≤ 165 := by
  have hb : b.toNat < 256 := b.isLt
  unfold azimuthOf azOffset
  omega

/-- An azimuth lies above a symmetric ±90 sweep exactly when its byte is 181 or more (41_decode_azimuth.md R47). -/
theorem azimuthOf_gt_ninety_iff (b : Byte) : 90 < azimuthOf b ↔ 181 ≤ b.toNat := by
  unfold azimuthOf azOffset
  omega

/-- A call of DAZIM on one byte delivers the azimuth of the byte, whatever the parameters (41_decode_azimuth.md R45). -/
theorem delivers_decodeAzimuth (p : Params) (b : Byte) : Delivers p (.decodeAzimuth [b]) (.azimuth (azimuthOf b)) :=
  delivers_of_exec (i := readAzimuth b) rfl fun _ _ => rfl

/-- Settles O9: the integer delivered is the azimuth of the byte, and the byte's own range bounds it. -/
theorem dazimDeliversByteMinusNinety : Obligations.DazimDeliversByteMinusNinety := by
  unfold Obligations.DazimDeliversByteMinusNinety
  intro p b
  exact ⟨delivers_decodeAzimuth p b, azimuthOf_bounds b⟩

/-- Settles O11: the azimuth of a byte from 181 on is delivered as it is, and lies above MAPR's larger source bound 90. -/
theorem dazimPassesWideAzimuthsOn : Obligations.DazimPassesWideAzimuthsOn := by
  unfold Obligations.DazimPassesWideAzimuthsOn
  intro p b hb
  have hwide : 90 < azimuthOf b := (azimuthOf_gt_ninety_iff b).2 hb
  have hmax : max (-90) 90 < azimuthOf b := hwide
  exact ⟨delivers_decodeAzimuth p b, hwide, (azimuthOf_bounds b).2,
    fun hm => delivers_outOfRangeError hm (.inr hmax)⟩

end Sys2Proof.Machine
end

section
/-! DCMD puts the azimuth of byte0 beside the base settings of byte1 (42_decode_command.md R50, R51). -/

namespace Sys2Proof.Machine

/-- A call of DCMD on a frame delivers the azimuth of byte0 combined with the base settings of byte1, whatever the
parameters (42_decode_command.md R51). -/
theorem delivers_decodeCommand (p : Params) (b0 b1 : Byte) :
    Delivers p (.decodeCommand [b0, b1]) (.settings (combine (azimuthOf b0) (baseSettings b1))) :=
  delivers_of_exec (i := readCommand b0 b1) rfl fun _ _ => rfl

/-- Settles O12: the azimuth is DAZIM's of byte0, and the other fields are those DBASE reads off byte1, the flags by the
decoder's own shift-and-mask tests and the speed as the masked byte. -/
theorem dcmdDeliversAzimuthThenBase : Obligations.DcmdDeliversAzimuthThenBase := by
  unfold Obligations.DcmdDeliversAzimuthThenBase
  intro p b0 b1
  have hspeed : (baseSettings b1).speed.val = (b1 &&& 0b1111#8).toNat := lowNibble_toNat_eq_toNat_and b1
  exact ⟨combine (azimuthOf b0) (baseSettings b1), delivers_decodeCommand p b0 b1, rfl, rfl, rfl, hspeed⟩

end Sys2Proof.Machine
end

section
/-! MAPR's two specified results: the error exactly outside the source bounds (43_range_mapper.md R57), and inside them the
quotient of R59, which at equal spans is a shift (R69). -/

namespace Sys2Proof.Machine

/-- The error comes of values outside the source bounds and of no others (43_range_mapper.md R57). -/
theorem delivers_outOfRangeError_iff {p : Params} (hm : p.hasMapper = true) (v a b c d : Int) :
    Delivers p (.mapRange v a b c d) (.mapped .outOfRangeError) ↔ v < min a b ∨ max a b < v := by
  refine ⟨fun h => ?_, fun hv => delivers_outOfRangeError hm hv c d⟩
  rw [delivers_mapRange_iff hm] at h
  cases ho : mapOutcome v a b c d with
  | raise => exact (outOfRange_iff ..).1 ((mapOutcome_raise_iff ..).1 ho)
  | value z => simp [ho] at h
  | unspecified => simp [ho] at h

/-- A value within the bounds of a source that is not degenerate is mapped to the truncated quotient, counted from
`dstMin` (43_range_mapper.md R59, R64). -/
theorem delivers_mapped_of_mem_bounds {p : Params} (hm : p.hasMapper = true) {v a b : Int} (hab : a ≠ b)
    (hv : min a b ≤ v ∧ v ≤ max a b) (c d : Int) :
    Delivers p (.mapRange v a b c d) (.mapped (.ok (c + ((v - a) * (d - c)).tdiv (b - a)))) := by
  have ho : mapOutcome v a b c d = .value (c + ((v - a) * (d - c)).tdiv (b - a)) :=
    (mapOutcome_value_iff ..).2 ⟨(outOfRange_false_iff ..).2 hv, hab, rfl⟩
  rw [delivers_mapRange_iff hm, ho]

/-- Where source and destination have the same span the division is exact, and the value is shifted by the distance of
the lower bounds (43_range_mapper.md R69). -/
theorem delivers_shifted_of_equal_spans {p : Params} (hm : p.hasMapper = true) {v a b c d : Int} (hab : a ≠ b)
    (hspan : d - c = b - a) (hv : min a b ≤ v ∧ v ≤ max a b) :
    Delivers p (.mapRange v a b c d) (.mapped (.ok (c + (v - a)))) := by
  have hq : ((v - a) * (d - c)).tdiv (b - a) = v - a := by
    rw [hspan]
    exact Int.mul_tdiv_cancel _ (sub_ne_zero.2 hab.symm)
  rw [← hq]
  exact delivers_mapped_of_mem_bounds hm hab hv c d

/-- Settles O18: all three clauses turn on the bounds alone, which are symmetric in their order; and a call delivers at
most one thing. -/
theorem maprRaisesExactlyOutsideTheBounds : Obligations.MaprRaisesExactlyOutsideTheBounds := by
  unfold Obligations.MaprRaisesExactlyOutsideTheBounds
  intro p hm v a b c d
  refine ⟨delivers_outOfRangeError_iff hm .., fun c' d' => ?_, fun z hv hz => ?_⟩
  · rw [delivers_outOfRangeError_iff hm, delivers_outOfRangeError_iff hm, Int.min_comm, Int.max_comm]
  · cases hz.unique (delivers_outOfRangeError hm hv c d)

/-- Settles O27: both spans are 180, so an accepted value is shifted by 90; 91 and up lie above the larger bound. -/
theorem maprServoUse : Obligations.MaprServoUse := by
  unfold Obligations.MaprServoUse
  intro p hm v
  refine ⟨fun hlo hhi => ?_, fun hlo _ => ?_⟩
  · have hshift : (0 : Int) + (v - -90) = v + 90 := by omega
    rw [← hshift]
    exact delivers_shifted_of_equal_spans hm (by decide) (by decide) (by omega)
  · exact delivers_outOfRangeError hm (.inr (by omega)) 0 180

end Sys2Proof.Machine
end

section
/-! Exceptions: the decode operations never raise (60_exceptions.md R71), and MAPR's error is decided before the degenerate
source is looked at (60_exceptions.md R74). -/

namespace Sys2Proof.Machine

/-- A call that delivers anything but the error does not deliver the error. -/
theorem Delivers.not_outOfRangeError {p : Params} {r : Request} {d : Delivery} (h : Delivers p r d)
    (hd : d ≠ .mapped .outOfRangeError) : ¬ Delivers p r (.mapped .outOfRangeError) :=
  fun herr => hd (h.unique herr)

/-- Settles O14: each decode delivers a result of its own kind, and a call delivers at most one thing. -/
theorem decodeOperationsRaiseNoError : Obligations.DecodeOperationsRaiseNoError := by
  unfold Obligations.DecodeOperationsRaiseNoError
  intro p b0 b1
  have hbase := delivers_decodeBase p b0
  have hazimuth := delivers_decodeAzimuth p b0
  have hcommand := delivers_decodeCommand p b0 b1
  refine ⟨⟨_, hbase⟩, ⟨_, hazimuth⟩, ⟨_, hcommand⟩, ?_⟩
  rintro r (rfl | rfl | rfl)
  · exact hbase.not_outOfRangeError (by simp)
  · exact hazimuth.not_outOfRangeError (by simp)
  · exact hcommand.not_outOfRangeError (by simp)

/-- Every request but `value = srcMin = srcMax` has a specified result: outside the source bounds the error, and inside
them the quotient, since equal bounds would enclose only the degenerate value (60_exceptions.md R74). -/
theorem exists_delivers_mapped_of_not_degenerate {p : Params} (hm : p.hasMapper = true) {v a b : Int}
    (hdeg : ¬ (v = a ∧ a = b)) (c d : Int) : ∃ x : MapResult, Delivers p (.mapRange v a b c d) (.mapped x) := by
  by_cases hv : v < min a b ∨ max a b < v
  · exact ⟨_, delivers_outOfRangeError hm hv c d⟩
  · have hin : min a b ≤ v ∧ v ≤ max a b := by omega
    have hab : a ≠ b := by omega
    exact ⟨_, delivers_mapped_of_mem_bounds hm hab hin c d⟩

/-- Settles O19: the smaller bound is not above the larger; with `srcMin = srcMax` both bounds are that integer, and every
other value lies outside them. -/
theorem maprErrorComesBeforeDegenerateSource : Obligations.MaprErrorComesBeforeDegenerateSource := by
  unfold Obligations.MaprErrorComesBeforeDegenerateSource
  intro p hm v a b c d
  refine ⟨fun ⟨hlo, hhi⟩ => ?_, fun hva => ?_, fun hdeg => exists_delivers_mapped_of_not_degenerate hm hdeg c d⟩
  · exact lt_asymm hhi (hlo.trans_le min_le_max)
  · have hout : v < min a a ∨ max a a < v := by
      rw [min_self, max_self]
      exact lt_or_gt_of_ne hva
    exact delivers_outOfRangeError hm hout c d

end Sys2Proof.Machine
end

section
/-! Decoding and encoding are inverse to each other: no instruction and no request of exact length is lost
(30_encoding.md, section 1). -/

namespace Sys2Proof

/-- Every instruction is read back from the words it encodes to. -/
@[simp] theorem decode_encode (i : Instr) : decode (encode i) = .ok i := by
  cases i with
  | dbase cw fire r sp =>
    obtain ⟨hcw, hfire, hr, hsp⟩ := fields_baseByte cw fire r sp
    simp only [encode, decode, readBase, hcw, hfire, hr, hsp]
  | dazim raw => rfl
  | dcmd raw cw fire r sp =>
    obtain ⟨hcw, hfire, hr, hsp⟩ := fields_baseByte cw fire r sp
    simp only [encode, decode, readCommand, hcw, hfire, hr, hsp]
  | mapr v a b c d => rfl

/-- What the encoder writes is always of exact length. -/
theorem encode_exactLength (i : Instr) : (encode i).exactLength = true :=
  (decode_ok_iff_exactLength _).1 ⟨i, decode_encode i⟩

/-- A request that decodes is what its instruction encodes to: every bit of its bytes stands in a field. -/
theorem encode_of_decode {r : Request} {i : Instr} (h : decode r = .ok i) : encode i = r := by
  unfold decode at h
  split at h <;> cases h
  · simp only [readBase, encode, baseByte_fields]
  · rfl
  · simp only [readCommand, encode, baseByte_fields]
  · rfl

/-- Two instructions with the same encoding are the same. -/
theorem encode_injective : Function.Injective encode := fun i j h => by
  have hdec : (.ok i : Except DecodeError Instr) = .ok j := by rw [← decode_encode i, h, decode_encode]
  cases hdec; rfl

end Sys2Proof

namespace Sys2Proof.Machine

/-- Settles O38: the encoder is an injective inverse of the decoder on both sides. -/
theorem decodeAndEncodeAgree : Obligations.DecodeAndEncodeAgree := by
  unfold Obligations.DecodeAndEncodeAgree
  refine ⟨fun i => ⟨decode_encode i, encode_exactLength i⟩, fun r hr => ?_⟩
  obtain ⟨i, hi⟩ := (decode_ok_iff_exactLength r).2 hr
  have hencode : encode i = r := encode_of_decode hi
  exact ⟨i, hi, hencode, fun j hj => encode_injective (hj.trans hencode.symm)⟩

end Sys2Proof.Machine
end

section
/-! What an instruction does, as an equation in each of three cases: its result is specified, it is MAPR's degenerate
request (43_range_mapper.md R62), or the block does not have the operation. -/

namespace Sys2Proof.Machine

theorem degenerate_mapr_iff (v a b c d : Int) : degenerate (.mapr v a b c d) = true ↔ v = a ∧ a = b := by
  simp [degenerate]

/-- The spec states no result exactly for the degenerate request (60_exceptions.md R74). -/
theorem deliveryOf_eq_none_iff (i : Instr) : deliveryOf i = none ↔ degenerate i = true := by
  cases i with
  | dbase cw fire r sp => simp [deliveryOf, degenerate]
  | dazim raw => simp [deliveryOf, degenerate]
  | dcmd raw cw fire r sp => simp [deliveryOf, degenerate]
  | mapr v a b c d =>
    rw [degenerate_mapr_iff, ← mapOutcome_unspecified_iff v a b c d]
    cases ho : mapOutcome v a b c d <;> simp [deliveryOf, ho]

/-- An operation that the block has delivers its stated result and does nothing else. -/
theorem exec_of_deliveryOf {i : Instr} {s : State} {d : Delivery} (hw : i.wellFormed s.params = true)
    (hd : deliveryOf i = some d) : exec i s = .next (s.deliver d) := by
  cases i with
  | dbase cw fire r sp => cases hd; rfl
  | dazim raw => cases hd; rfl
  | dcmd raw cw fire r sp => cases hd; rfl
  | mapr v a b x y =>
    rw [exec_mapr_of_hasMapper hw]
    cases ho : mapOutcome v a b x y with
    | raise => simp only [deliveryOf, ho, Option.some.injEq] at hd; subst hd; rfl
    | value z => simp only [deliveryOf, ho, Option.some.injEq] at hd; subst hd; rfl
    | unspecified => simp [deliveryOf, ho] at hd

/-- The degenerate request is left to the block's `MAP_DEGENERATE_SRC` (D14). -/
theorem exec_of_degenerate {i : Instr} {s : State} (hw : i.wellFormed s.params = true) (hdeg : degenerate i = true) :
    exec i s = s.deliverUnspecified := by
  cases i with
  | dbase cw fire r sp => cases hdeg
  | dazim raw => cases hdeg
  | dcmd raw cw fire r sp => cases hdeg
  | mapr v a b c d =>
    have ho : mapOutcome v a b c d = .unspecified :=
      (mapOutcome_unspecified_iff ..).2 ((degenerate_mapr_iff ..).1 hdeg)
    rw [exec_mapr_of_hasMapper hw, ho]; rfl

/-- The one operation that a block may lack is MAPR, and it is refused there by name (D10). -/
theorem exec_of_not_wellFormed {i : Instr} {s : State} (hw : i.wellFormed s.params = false) :
    exec i s = .refused .mapperAbsent := by
  cases i with
  | dbase cw fire r sp => cases hw
  | dazim raw => cases hw
  | dcmd raw cw fire r sp => cases hw
  | mapr v a b c d =>
    have hm : s.params.hasMapper = false := hw
    simp [exec, execMapr, hm]

/-- An instruction that completes delivers its stated result, or it is the degenerate request, which delivers a free value
on a block with a mapper. -/
theorem exec_next_cases {i : Instr} {s t : State} (h : exec i s = .next t) :
    (i.wellFormed s.params = true ∧ degenerate i = false ∧ ∃ d, deliveryOf i = some d ∧ t = s.deliver d) ∨
      (s.params.hasMapper = true ∧ degenerate i = true ∧ s.params.degenerateSrc = .anyValue ∧
        t = s.deliverFreeMapResult) := by
  cases hw : i.wellFormed s.params with
  | false => rw [exec_of_not_wellFormed hw] at h; cases h
  | true =>
    cases hdeg : degenerate i with
    | false =>
      obtain ⟨d, hd⟩ : ∃ d, deliveryOf i = some d :=
        Option.ne_none_iff_exists'.1 fun hn => by simp [(deliveryOf_eq_none_iff i).1 hn] at hdeg
      rw [exec_of_deliveryOf hw hd] at h
      cases h
      exact .inl ⟨rfl, rfl, d, hd, rfl⟩
    | true =>
      have hm : s.params.hasMapper = true := by
        cases i with
        | mapr v a b c d => exact hw
        | _ => cases hdeg
      rw [exec_of_degenerate hw hdeg, State.deliverUnspecified] at h
      cases hsrc : s.params.degenerateSrc with
      | anyValue => rw [hsrc] at h; cases h; exact .inr ⟨hm, rfl, rfl, rfl⟩
      | refuse => rw [hsrc] at h; cases h

/-- An instruction completes exactly when the block has its operation and does not refuse it as degenerate. -/
theorem exec_completes_iff (i : Instr) (s : State) :
    (∃ t, exec i s = .next t) ↔
      i.wellFormed s.params = true ∧ ¬ (degenerate i = true ∧ s.params.degenerateSrc = .refuse) := by
  cases hw : i.wellFormed s.params with
  | false => simp [exec_of_not_wellFormed hw]
  | true =>
    cases hd : deliveryOf i with
    | none =>
      have hdeg : degenerate i = true := (deliveryOf_eq_none_iff i).1 hd
      rw [exec_of_degenerate hw hdeg, State.deliverUnspecified]
      cases hsrc : s.params.degenerateSrc <;> simp [hdeg]
    | some d =>
      have hdeg : ¬ degenerate i = true := fun h => by simp [(deliveryOf_eq_none_iff i).2 h] at hd
      simp [exec_of_deliveryOf hw hd, hdeg]

end Sys2Proof.Machine
end

section
/-! What serving one event does, and the frame of an instruction, an event and a step (10_state.md section 1,
20_memory.md section 4). -/

namespace Sys2Proof.Machine

theorem serve_call_of_decode {s : State} {r : Request} {i : Instr} (h : decode r = .ok i) :
    s.serve (.call r) = exec i s := by
  simp only [State.serve, State.call, h]

theorem serve_call_of_error {s : State} {r : Request} {e : DecodeError} (h : decode r = .error e) :
    s.serve (.call r) = .refused (.malformedRequest e) := by
  simp only [State.serve, State.call, h]

/-- Everything that serving an event which completes can have done. -/
theorem serve_next_cases {s t : State} {e : HostEvent} (h : s.serve e = .next t) :
    (∃ r i, e = .call r ∧ decode r = .ok i ∧ exec i s = .next t) ∨
      (∃ x, e = .driveByte0 x ∧ t = s.driveByte0 x) ∨
      (∃ x, e = .driveByte1 x ∧ t = s.driveByte1 x) ∨
      (∃ port x, e = .driveMapper port x ∧ s.params.hasMapper = true ∧ (∀ z, x = some z → fits s.params.mapW z = true) ∧
        t = { s with ports := s.ports.setMapper port x }) ∨
      (e = .sample ∧ t = s.sampleOutputs) := by
  cases e with
  | call r =>
    cases hr : decode r with
    | ok i => exact .inl ⟨r, i, rfl, hr, serve_call_of_decode hr ▸ h⟩
    | error err => rw [serve_call_of_error hr] at h; cases h
  | driveByte0 x => cases h; exact .inr (.inl ⟨x, rfl, rfl⟩)
  | driveByte1 x => cases h; exact .inr (.inr (.inl ⟨x, rfl, rfl⟩))
  | driveMapper port x =>
    have h : s.driveMapper port x = .next t := h
    obtain ⟨hm, hfits, hx⟩ | ⟨-, z, -, -, hx⟩ | ⟨-, hx⟩ := driveMapper_cases s port x
    · rw [hx] at h; cases h; exact .inr (.inr (.inr (.inl ⟨port, x, rfl, hm, hfits, rfl⟩)))
    · rw [hx] at h; cases h
    · rw [hx] at h; cases h
  | sample => cases h; exact .inr (.inr (.inr (.inr ⟨rfl, rfl⟩)))

/-- The frame of an instruction: it adds one result, and a free one exactly for the degenerate request. -/
theorem exec_frame {i : Instr} {s t : State} (h : exec i s = .next t) :
    t.params = s.params ∧ t.ports = s.ports ∧ t.pending = s.pending ∧ (∃ d, t.delivered = s.delivered ++ [d]) ∧
      t.draws = if degenerate i then s.draws + 1 else s.draws := by
  obtain ⟨-, hdeg, d, -, rfl⟩ | ⟨-, hdeg, -, rfl⟩ := exec_next_cases h
  · exact ⟨rfl, rfl, rfl, ⟨d, rfl⟩, by simp [hdeg]⟩
  · exact ⟨rfl, rfl, rfl, ⟨_, rfl⟩, by simp [hdeg]⟩

/-- The frame of an event: parameters and queue stay, and at most one entry is added to what was delivered. -/
theorem serve_frame {s t : State} {e : HostEvent} (h : s.serve e = .next t) :
    t.params = s.params ∧ t.pending = s.pending ∧ (∃ new, t.delivered = s.delivered ++ new ∧ new.length ≤ 1) ∧
      s.draws ≤ t.draws := by
  obtain ⟨r, i, -, -, hi⟩ | ⟨x, -, rfl⟩ | ⟨x, -, rfl⟩ | ⟨port, x, -, -, -, rfl⟩ | ⟨-, rfl⟩ := serve_next_cases h
  · obtain ⟨hp, -, hq, ⟨d, hd⟩, hk⟩ := exec_frame hi
    refine ⟨hp, hq, ⟨[d], hd, le_rfl⟩, ?_⟩
    rw [hk]; split <;> omega
  · exact ⟨rfl, rfl, ⟨[], by simp⟩, le_rfl⟩
  · exact ⟨rfl, rfl, ⟨[], by simp⟩, le_rfl⟩
  · exact ⟨rfl, rfl, ⟨[], by simp⟩, le_rfl⟩
  · exact ⟨rfl, rfl, ⟨[_], rfl, le_rfl⟩, Nat.le_succ _⟩

/-- Settles O42: it is the frame of an instruction. -/
theorem execChangesOnlyWhatIsDelivered : Obligations.ExecChangesOnlyWhatIsDelivered := by
  unfold Obligations.ExecChangesOnlyWhatIsDelivered
  exact fun _ _ _ => exec_frame

/-- Settles O43: an idle step changes nothing, and any other step has the frame of the event it serves. -/
theorem stepServesOneEvent : Obligations.StepServesOneEvent := by
  unfold Obligations.StepServesOneEvent
  intro s t h
  cases hs : s.pending with
  | nil =>
    rw [step_of_nil hs] at h
    cases h
    exact ⟨rfl, hs, List.prefix_rfl, Nat.le_succ _, le_rfl⟩
  | cons e rest =>
    rw [step_of_cons hs] at h
    obtain ⟨hp, hq, ⟨new, hnew, hlen⟩, hk⟩ := serve_frame h
    have hnew : t.delivered = s.delivered ++ new := hnew
    refine ⟨hp, hq, ⟨new, hnew.symm⟩, ?_, hk⟩
    rw [hnew, List.length_append]
    omega

end Sys2Proof.Machine
end

section
/-! Which events complete, and runs of the host (70_reset_and_hazards.md section 4). -/

namespace Sys2Proof.Machine

/-- A call is serviceable when it decodes to an operation that the block has and does not refuse. -/
theorem serviceable_call_iff (p : Params) (r : Request) :
    HostEvent.serviceable p (.call r) = true ↔
      ∃ i, decode r = .ok i ∧ i.wellFormed p = true ∧ ¬ (degenerate i = true ∧ p.degenerateSrc = .refuse) := by
  cases hr : decode r with
  | error e => simp [HostEvent.serviceable, hr]
  | ok i => cases hdeg : degenerate i <;> simp [HostEvent.serviceable, hr, hdeg]

theorem call_completes_iff (s : State) (r : Request) :
    (∃ t, s.serve (.call r) = .next t) ↔ HostEvent.serviceable s.params (.call r) = true := by
  rw [serviceable_call_iff]
  cases hr : decode r with
  | error e => simp [serve_call_of_error hr]
  | ok i => rw [serve_call_of_decode hr, exec_completes_iff]; simp

theorem driveMapper_completes_iff (s : State) (port : MapPort) (x : Option Int) :
    (∃ t, s.serve (.driveMapper port x) = .next t) ↔
      HostEvent.serviceable s.params (.driveMapper port x) = true := by
  rw [State.serve]
  obtain ⟨hm, hfits, hx⟩ | ⟨hm, z, rfl, hz, hx⟩ | ⟨hm, hx⟩ := driveMapper_cases s port x
  · cases x with
    | none => simp [hx, hm, HostEvent.serviceable]
    | some z => simp [hx, hm, HostEvent.serviceable, hfits z rfl]
  · simp [hx, hz, HostEvent.serviceable]
  · cases x <;> simp [hx, hm, HostEvent.serviceable]

/-- An event completes exactly when the block can serve it. -/
theorem serve_completes_iff (s : State) (e : HostEvent) :
    (∃ t, s.serve e = .next t) ↔ HostEvent.serviceable s.params e = true := by
  cases e with
  | call r => exact call_completes_iff s r
  | driveByte0 x => exact iff_of_true ⟨_, rfl⟩ rfl
  | driveByte1 x => exact iff_of_true ⟨_, rfl⟩ rfl
  | driveMapper port x => exact driveMapper_completes_iff s port x
  | sample => exact iff_of_true ⟨_, rfl⟩ rfl

/-- Settles O44: a step with an event pending serves that event. -/
theorem exactlyServiceableEventsComplete : Obligations.ExactlyServiceableEventsComplete := by
  unfold Obligations.ExactlyServiceableEventsComplete
  refine ⟨fun s e rest hs => ?_, fun s hs => step_of_nil hs⟩
  rw [step_of_cons hs]
  exact serve_completes_iff { s with pending := rest } e

/-- The host issues only events that the block can serve (70_reset_and_hazards.md R83). -/
def AllServiceable (s : State) : Prop := ∀ e ∈ s.pending, HostEvent.serviceable s.params e = true

/-- A host that issues only serviceable events can always take a step, and what is left is serviceable too. -/
theorem AllServiceable.step {s : State} (h : AllServiceable s) : ∃ t, step s = .next t ∧ AllServiceable t := by
  cases hs : s.pending with
  | nil => exact ⟨s, step_of_nil hs, h⟩
  | cons e rest =>
    obtain ⟨t, ht⟩ := (serve_completes_iff { s with pending := rest } e).2 (h e (by simp [hs]))
    obtain ⟨hp, hq, -, -⟩ := serve_frame ht
    refine ⟨t, by rw [step_of_cons hs, ht], fun e' he' => ?_⟩
    rw [hq] at he'
    rw [hp]
    exact h e' (by rw [hs]; exact List.mem_cons_of_mem e he')

/-- The first step of a longer run. -/
theorem run_succ_of_step {M : Host.Core} {s t : M.State} (h : M.step s = .next t) (k : Nat) :
    M.run (k + 1) s = M.run k t := by
  rw [Host.Core.run, h]

/-- Settles O45: serviceability of all that is pending is kept by every step. -/
theorem serviceableRunsAreSafe : Obligations.ServiceableRunsAreSafe := by
  unfold Obligations.ServiceableRunsAreSafe
  intro k
  induction k with
  | zero => exact fun s _ => ⟨s, rfl⟩
  | succ k ih =>
    intro s hs
    obtain ⟨t, ht, hrest⟩ := AllServiceable.step hs
    obtain ⟨u, hu⟩ := ih t hrest
    exact ⟨u, (run_succ_of_step (M := Sys2Proof.core) ht k).trans hu⟩

/-- A specified call delivers its result, a function of its operands, in one step and does nothing else. -/
theorem delivers_resultOf_of_specified {p : Params} {r : Request} (h : HostEvent.specified p (.call r) = true) :
    ∃ d, resultOf r = some d ∧ Delivers p r d := by
  cases hr : decode r with
  | error e => simp [HostEvent.specified, hr] at h
  | ok i =>
    obtain ⟨hw, hdeg⟩ : i.wellFormed p = true ∧ degenerate i = false := by simpa [HostEvent.specified, hr] using h
    cases hd : deliveryOf i with
    | none => simp [(deliveryOf_eq_none_iff i).1 hd] at hdeg
    | some d =>
      refine ⟨d, by simp [resultOf, hr, Except.toOption, hd], delivers_of_exec hr ?_⟩
      rintro s rfl
      exact exec_of_deliveryOf hw hd

/-- Settles O46: `Delivers` speaks of every state with the given parameters, and its result is read off the operands. -/
theorem resultsDependOnOperandsOnly : Obligations.ResultsDependOnOperandsOnly := by
  unfold Obligations.ResultsDependOnOperandsOnly
  intro s s' r rest rest' hs hs' hp hspec
  obtain ⟨d, hr, hd⟩ := delivers_resultOf_of_specified hspec
  exact ⟨d, hr, hd s rest rfl hs, hd s' rest' hp.symm hs'⟩

/-- Settles O48, by induction on the calls: the first is served and delivers its result, and the rest are a shorter run. -/
theorem runIsThePointwiseImageOfTheCalls : Obligations.RunIsThePointwiseImageOfTheCalls := by
  unfold Obligations.RunIsThePointwiseImageOfTheCalls
  intro rs
  induction rs with
  | nil => exact fun s rest hs _ => ⟨s, rfl, by simp, by simpa using hs, rfl, rfl, rfl⟩
  | cons r rs ih =>
    intro s rest hs hspec
    obtain ⟨d, hr, hd⟩ := delivers_resultOf_of_specified (hspec r (by simp))
    have hstep := hd s (rs.map HostEvent.call ++ rest) rfl hs
    obtain ⟨t, hrun, hdel, hpend, hp, hports, hdraws⟩ :=
      ih { s with pending := rs.map HostEvent.call ++ rest, delivered := s.delivered ++ [d] } rest rfl
        fun r' hr' => hspec r' (List.mem_cons_of_mem r hr')
    refine ⟨t, (run_succ_of_step (M := Sys2Proof.core) hstep _).trans hrun, ?_, hpend, hp, hports, hdraws⟩
    simp [hdel, hr]

/-- Settles O41: a pending call is decoded and its instruction run; a table word is such a call. -/
theorem stepRunsTheDecodedInstruction : Obligations.StepRunsTheDecodedInstruction := by
  unfold Obligations.StepRunsTheDecodedInstruction
  have hcall : ∀ (s : State) (r : Request) (rest : List HostEvent) (i : Instr),
      s.pending = .call r :: rest → decode r = .ok i → step s = exec i { s with pending := rest } :=
    fun s r rest i hs hr => by rw [step_of_cons hs, serve_call_of_decode hr]
  refine ⟨hcall, fun s nbits w i hi => ?_⟩
  cases hr : decode (tableRequest nbits w) with
  | error e => simp [decodeTableWord, hr, Except.toOption] at hi
  | ok j =>
    obtain rfl : j = i := by simpa [decodeTableWord, hr, Except.toOption] using hi
    exact hcall _ _ _ _ (State.withFetchWord_pending s nbits w) hr

/-- A pending call that does not decode is refused as malformed. -/
theorem step_of_decode_error {s : State} {r : Request} {rest : List HostEvent} {e : DecodeError}
    (hs : s.pending = .call r :: rest) (hr : decode r = .error e) : step s = .refused (.malformedRequest e) := by
  rw [step_of_cons hs, serve_call_of_error hr]

/-- Settles O15: a frame of a wrong length matches none of the decoder's patterns. -/
theorem wrongFrameLengthIsRefused : Obligations.WrongFrameLengthIsRefused := by
  unfold Obligations.WrongFrameLengthIsRefused
  intro s bs rest
  refine ⟨fun hlen hs => step_of_decode_error hs ?_, fun hlen hs => step_of_decode_error hs ?_,
    fun hlen hs => step_of_decode_error hs ?_⟩
  · obtain _ | ⟨b, _ | ⟨b', bs⟩⟩ := bs
    · rfl
    · simp at hlen
    · rfl
  · obtain _ | ⟨b, _ | ⟨b', bs⟩⟩ := bs
    · rfl
    · simp at hlen
    · rfl
  · obtain _ | ⟨b, _ | ⟨b', _ | ⟨b'', bs⟩⟩⟩ := bs
    · rfl
    · rfl
    · simp at hlen
    · rfl

end Sys2Proof.Machine
end

section
/-! The invariant of the states around the block: well-formed ports, well-formed deliveries (10_state.md sections 2
and 3). -/

namespace Sys2Proof

/-- The signed reading of a port's pattern fits the port. -/
theorem fits_toInt {w : Nat} (x : BitVec w) : fits w x.toInt = true := by
  simp [fits]

end Sys2Proof

namespace Sys2Proof.Machine

/-- The ports are well-formed when each mapper port carries a level that fits, and none without a mapper. -/
theorem Ports.wellFormed_iff (p : Params) (x : Ports) :
    x.wellFormed p = true ↔
      (p.hasMapper = true ∨ ∀ q, x.mapper q = none) ∧ ∀ q, levelFits p.mapW (x.mapper q) = true := by
  have hports : ∀ P : Option Int → Prop, (∀ q, P (x.mapper q)) ↔
      P x.value ∧ P x.srcMin ∧ P x.srcMax ∧ P x.dstMin ∧ P x.dstMax := fun P =>
    ⟨fun h => ⟨h .value, h .srcMin, h .srcMax, h .dstMin, h .dstMax⟩,
      fun ⟨hv, ha, hb, hc, hd⟩ q => by cases q <;> assumption⟩
  simp only [hports (· = none), hports (levelFits p.mapW · = true), Ports.wellFormed, Bool.and_eq_true, Bool.or_eq_true,
    beq_iff_eq, and_assoc]

/-- Ports with the same mapper levels are equally well-formed: the byte ports carry anything. -/
theorem Ports.wellFormed_of_mapper_eq {p : Params} {x y : Ports} (h : ∀ q, y.mapper q = x.mapper q)
    (hx : x.wellFormed p = true) : y.wellFormed p = true := by
  rw [Ports.wellFormed_iff] at hx ⊢
  simpa only [h] using hx

/-- A level that fits, put on a port of a block with a mapper, keeps the ports well-formed. -/
theorem Ports.wellFormed_setMapper {p : Params} {x : Ports} (hm : p.hasMapper = true) (port : MapPort) {z : Option Int}
    (hz : levelFits p.mapW z = true) (hx : x.wellFormed p = true) : (x.setMapper port z).wellFormed p = true := by
  rw [Ports.wellFormed_iff] at hx ⊢
  obtain ⟨-, hfits⟩ := hx
  refine ⟨.inl hm, fun q => ?_⟩
  by_cases hq : q = port
  · rw [hq, Ports.mapper_setMapper_self]; exact hz
  · rw [Ports.mapper_setMapper_of_ne x z hq]; exact hfits q

theorem azimuthInRange_azimuthOf (b : Byte) : azimuthInRange (azimuthOf b) = true := by
  simpa [azimuthInRange] using azimuthOf_bounds b

/-- What an operation of the block delivers meets the data model. -/
theorem deliveryOf_wellFormed {p : Params} {i : Instr} {d : Delivery} (hw : i.wellFormed p = true)
    (hd : deliveryOf i = some d) : d.wellFormed p = true := by
  cases i with
  | dbase cw fire r sp => cases hd; rfl
  | dazim raw => cases hd; exact azimuthInRange_azimuthOf raw
  | dcmd raw cw fire r sp => cases hd; exact azimuthInRange_azimuthOf raw
  | mapr v a b x y =>
    have hmapped : ∃ z, d = .mapped z := by
      cases ho : mapOutcome v a b x y <;> simp [deliveryOf, ho] at hd <;> exact ⟨_, hd.symm⟩
    obtain ⟨z, rfl⟩ := hmapped
    exact hw

/-- The sampled outputs meet the data model: `mapped` is the reading of a `MAP_W`-bit pattern. -/
theorem outputs_wellFormed (s : State) : Delivery.wellFormed s.params (.sample s.outputs) = true := by
  cases hm : s.params.hasMapper <;>
    simp [State.outputs, Ports.outputs, Delivery.wellFormed, hm, fits_toInt]

/-- A state with the same parameters, well-formed ports and one well-formed delivery more meets the invariant. -/
theorem State.Inv.of_delivered_append {s t : State} (h : s.Inv) (hp : t.params = s.params)
    (hports : t.ports.wellFormed s.params = true) {new : List Delivery} (hnew : t.delivered = s.delivered ++ new)
    (hwf : ∀ d ∈ new, d.wellFormed s.params = true) : t.Inv := by
  obtain ⟨-, hdel⟩ := h
  refine ⟨hp ▸ hports, fun d hd => ?_⟩
  rw [hnew, List.mem_append] at hd
  rw [hp]
  exact hd.elim (hdel d) (hwf d)

theorem exec_inv {i : Instr} {s t : State} (h : s.Inv) (ht : exec i s = .next t) : t.Inv := by
  obtain ⟨hw, -, d, hd, rfl⟩ | ⟨hm, -, -, rfl⟩ := exec_next_cases ht
  · exact h.of_delivered_append rfl h.1 rfl (by simpa using deliveryOf_wellFormed hw hd)
  · exact h.of_delivered_append rfl h.1 rfl (by simpa [Delivery.wellFormed] using hm)

theorem serve_inv {s t : State} {e : HostEvent} (h : s.Inv) (ht : s.serve e = .next t) : t.Inv := by
  obtain ⟨r, i, -, -, hi⟩ | ⟨x, -, rfl⟩ | ⟨x, -, rfl⟩ | ⟨port, x, -, hm, hx, rfl⟩ | ⟨-, rfl⟩ := serve_next_cases ht
  · exact exec_inv h hi
  · exact ⟨Ports.wellFormed_of_mapper_eq (State.driveByte0_mapper s x) h.1, h.2⟩
  · exact ⟨Ports.wellFormed_of_mapper_eq (State.driveByte1_mapper s x) h.1, h.2⟩
  · have hfits : levelFits s.params.mapW x = true := by
      cases x with
      | none => rfl
      | some z => exact hx z rfl
    exact ⟨Ports.wellFormed_setMapper hm port hfits h.1, h.2⟩
  · exact h.of_delivered_append rfl h.1 rfl (by simpa using outputs_wellFormed s)

/-- Settles O49: an idle step changes nothing, and every event keeps the invariant. -/
theorem stepKeepsTheInvariant : Obligations.StepKeepsTheInvariant := by
  unfold Obligations.StepKeepsTheInvariant
  intro s t h ht
  cases hs : s.pending with
  | nil => rw [step_of_nil hs] at ht; cases ht; exact h
  | cons e rest =>
    rw [step_of_cons hs] at ht
    have hrest : State.Inv { s with pending := rest } := h
    exact serve_inv hrest ht

/-- Settles O50: no port is driven and nothing was delivered. -/
theorem resetMeetsTheInvariant : Obligations.ResetMeetsTheInvariant := by
  unfold Obligations.ResetMeetsTheInvariant
  exact ⟨by decide, by simp [State.reset]⟩

/-- Settles O51: the fields of the reset state are written out in its definition. -/
theorem resetStateHasTheDefaultParameters : Obligations.ResetStateHasTheDefaultParameters := by
  unfold Obligations.ResetStateHasTheDefaultParameters
  refine ⟨rfl, rfl, rfl, rfl, rfl, rfl, rfl, fun q => ?_⟩
  cases q <;> rfl

end Sys2Proof.Machine
end

section
/-! The written text of an instruction reads back as its request (30_encoding.md section 6): digits, then operands, then
lines. -/

namespace Sys2Proof.Machine

/-! ### Digits and numbers -/

/-- A written digit is read back, in every base that has it. -/
theorem digitValue_hexDigit {base v : Nat} (hbase : base ≤ 16) (hv : v < base) :
    digitValue base (hexDigit v) = some v := by
  have hall : ∀ base ≤ 16, ∀ v < base, digitValue base (hexDigit v) = some v := by decide
  exact hall base hbase v hv

/-- A digit is none of the characters that structure a line. -/
theorem hexDigit_ne {v : Nat} (hv : v < 16) : hexDigit v ≠ ',' ∧ hexDigit v ≠ ' ' ∧ hexDigit v ≠ '-' := by
  revert v; decide

theorem readDigits_hexDigit_cons {base v : Nat} (hbase : base ≤ 16) (hv : v < base) (acc : Nat) (text : List Char) :
    readDigits base acc (hexDigit v :: text) = readDigits base (acc * base + v) text := by
  rw [readDigits, digitValue_hexDigit hbase hv, Option.bind_some]

/-- Reading the digits of `n` from nothing leaves `n` read before what follows them. -/
theorem readDigits_writeDigits {fuel n : Nat} (hn : n < fuel) (text : List Char) :
    readDigits 10 0 (writeDigits fuel n text) = readDigits 10 n text := by
  induction fuel generalizing n text with
  | zero => omega
  | succ fuel ih =>
    rw [writeDigits]
    split
    · rw [readDigits_hexDigit_cons (by decide) (by assumption), Nat.zero_mul, Nat.zero_add]
    · rw [ih (by omega), readDigits_hexDigit_cons (by decide) (Nat.mod_lt n (by decide)), Nat.div_add_mod']

/-- Decimal digits alone, before what follows them. -/
theorem mem_writeDigits {fuel n : Nat} {text : List Char} {x : Char} (hx : x ∈ writeDigits fuel n text) :
    x ∈ text ∨ ∃ v < 16, x = hexDigit v := by
  induction fuel generalizing n text with
  | zero => exact .inl hx
  | succ fuel ih =>
    rw [writeDigits] at hx
    split at hx
    · rcases List.mem_cons.1 hx with rfl | hx
      · exact .inr ⟨n, by omega, rfl⟩
      · exact .inl hx
    · rcases ih hx with hx | hx
      · rcases List.mem_cons.1 hx with rfl | hx
        · exact .inr ⟨n % 10, by omega, rfl⟩
        · exact .inl hx
      · exact .inr hx

theorem mem_writeNat {n : Nat} {x : Char} (hx : x ∈ writeNat n) : ∃ v < 16, x = hexDigit v :=
  (mem_writeDigits hx).resolve_left List.not_mem_nil

theorem readDigits_writeNat (n : Nat) : readDigits 10 0 (writeNat n) = some n :=
  readDigits_writeDigits (Nat.lt_succ_self n) []

theorem writeDigits_ne_nil (fuel n : Nat) {text : List Char} (h : text ≠ []) : writeDigits fuel n text ≠ [] := by
  induction fuel generalizing n text with
  | zero => exact h
  | succ fuel ih =>
    rw [writeDigits]
    split
    · exact List.cons_ne_nil _ _
    · exact ih _ (List.cons_ne_nil _ _)

theorem writeNat_ne_nil (n : Nat) : writeNat n ≠ [] := by
  rw [writeNat, writeDigits]
  split
  · exact List.cons_ne_nil _ _
  · exact writeDigits_ne_nil _ _ (List.cons_ne_nil _ _)

theorem readNat_writeNat (n : Nat) : readNat (writeNat n) = some n := by
  rw [readNat, if_neg (writeNat_ne_nil n), readDigits_writeNat]

/-- Text without a sign is read as the natural number it writes. -/
theorem readInt_of_not_mem {text : List Char} {n : Nat} (hsign : '-' ∉ text) (h : readNat text = some n) :
    readInt text = some (n : Int) := by
  unfold readInt
  split
  · simp at hsign
  · simp [h]

theorem readInt_neg_cons {text : List Char} {n : Nat} (h : readNat text = some n) :
    readInt ('-' :: text) = some (-(n : Int)) := by
  simp [readInt, h]

theorem readInt_writeInt (z : Int) : readInt (writeInt z) = some z := by
  have hread : readNat (writeNat z.natAbs) = some z.natAbs := readNat_writeNat _
  rw [writeInt]
  split
  · have habs : -(z.natAbs : Int) = z := by omega
    rw [readInt_neg_cons hread, habs]
  · have habs : (z.natAbs : Int) = z := by omega
    have hsign : '-' ∉ writeNat z.natAbs := fun h => by
      obtain ⟨v, hv, hx⟩ := mem_writeNat h
      obtain ⟨-, -, hne⟩ := hexDigit_ne hv
      exact hne hx.symm
    rw [readInt_of_not_mem hsign hread, habs]

theorem readByte_writeByte (b : Byte) : readByte (writeByte b) = some b := by
  have hb : b.toNat < 256 := b.isLt
  have hdigits : readDigits 16 0 [hexDigit (b.toNat / 16), hexDigit (b.toNat % 16)] = some b.toNat := by
    rw [readDigits_hexDigit_cons (by decide) (by omega), readDigits_hexDigit_cons (by decide) (by omega), readDigits,
      Nat.zero_mul, Nat.zero_add, Nat.div_add_mod']
  simp [readByte, writeByte, hdigits]

/-! ### Operands -/

/-- The text has no character that separates operands. -/
def IsPlain (text : List Char) : Prop := ',' ∉ text ∧ ' ' ∉ text

theorem isPlain_writeByte (b : Byte) : IsPlain (writeByte b) := by
  have hb : b.toNat < 256 := b.isLt
  obtain ⟨hcomma, hspace, -⟩ := hexDigit_ne (v := b.toNat / 16) (by omega)
  obtain ⟨hcomma', hspace', -⟩ := hexDigit_ne (v := b.toNat % 16) (by omega)
  simp [IsPlain, writeByte, hcomma.symm, hspace.symm, hcomma'.symm, hspace'.symm]

theorem isPlain_writeNat (n : Nat) : IsPlain (writeNat n) := by
  constructor
  · intro h
    obtain ⟨v, hv, hx⟩ := mem_writeNat h
    obtain ⟨hcomma, -, -⟩ := hexDigit_ne hv
    exact hcomma hx.symm
  · intro h
    obtain ⟨v, hv, hx⟩ := mem_writeNat h
    obtain ⟨-, hspace, -⟩ := hexDigit_ne hv
    exact hspace hx.symm

theorem isPlain_writeInt (z : Int) : IsPlain (writeInt z) := by
  obtain ⟨hcomma, hspace⟩ := isPlain_writeNat z.natAbs
  rw [writeInt]
  split
  · simp [IsPlain, hcomma, hspace]
  · exact ⟨hcomma, hspace⟩

theorem splitAtChar_ne_nil (c : Char) (text : List Char) : splitAtChar c text ≠ [] := by
  cases text with
  | nil => exact List.cons_ne_nil _ _
  | cons x text =>
    rw [splitAtChar]
    split
    · exact List.cons_ne_nil _ _
    · split <;> exact List.cons_ne_nil _ _

/-- A text without the separator is its only part. -/
theorem splitAtChar_of_not_mem {c : Char} {text : List Char} (h : c ∉ text) : splitAtChar c text = [text] := by
  induction text with
  | nil => rfl
  | cons x text ih =>
    obtain ⟨hx, htext⟩ : c ≠ x ∧ c ∉ text := by simpa using h
    simp [splitAtChar, ih htext, hx.symm]

/-- The first part ends at the first separator. -/
theorem splitAtChar_append_cons {c : Char} {text : List Char} (h : c ∉ text) (rest : List Char) :
    splitAtChar c (text ++ c :: rest) = text :: splitAtChar c rest := by
  induction text with
  | nil =>
    obtain ⟨part, parts, hrest⟩ := List.exists_cons_of_ne_nil (splitAtChar_ne_nil c rest)
    simp [splitAtChar, hrest]
  | cons x text ih =>
    obtain ⟨hx, htext⟩ : c ≠ x ∧ c ∉ text := by simpa using h
    simp [splitAtChar, ih htext, hx.symm]

/-- Text without spaces starts with none. -/
theorem skipSpaces_of_not_mem {text : List Char} (h : ' ' ∉ text) : skipSpaces text = text := by
  cases text with
  | nil => rfl
  | cons x text =>
    obtain ⟨hx, -⟩ : ' ' ≠ x ∧ ' ' ∉ text := by simpa using h
    rw [skipSpaces, if_neg hx.symm]

/-- A space before the operands is skipped. -/
theorem readOperands_space_cons {α : Type} (read : List Char → Option α) (text : List Char) :
    readOperands read (' ' :: text) = readOperands read text := by
  obtain ⟨part, parts, htext⟩ := List.exists_cons_of_ne_nil (splitAtChar_ne_nil ',' text)
  simp [readOperands, splitAtChar, htext, skipSpaces]

/-- A single operand. -/
theorem readOperands_of_isPlain {α : Type} {read : List Char → Option α} {text : List Char} {x : α}
    (hplain : IsPlain text) (hread : read text = some x) : readOperands read text = some [x] := by
  obtain ⟨hcomma, hspace⟩ := hplain
  simp [readOperands, splitAtChar_of_not_mem hcomma, skipSpaces_of_not_mem hspace, readAll, hread]

/-- The first of several operands. -/
theorem readOperands_append_comma {α : Type} {read : List Char → Option α} {text : List Char} {x : α}
    (hplain : IsPlain text) (hread : read text = some x) (rest : List Char) :
    readOperands read (text ++ ',' :: ' ' :: rest) = (readOperands read rest).map (x :: ·) := by
  obtain ⟨hcomma, hspace⟩ := hplain
  rw [← readOperands_space_cons read rest]
  simp [readOperands, splitAtChar_append_cons hcomma, skipSpaces_of_not_mem hspace, readAll, hread]

theorem readOperands_writeByte (b : Byte) : readOperands readByte (writeByte b) = some [b] :=
  readOperands_of_isPlain (isPlain_writeByte b) (readByte_writeByte b)

theorem readOperands_writeByte_append (b : Byte) (rest : List Char) :
    readOperands readByte (writeByte b ++ ',' :: ' ' :: rest) = (readOperands readByte rest).map (b :: ·) :=
  readOperands_append_comma (isPlain_writeByte b) (readByte_writeByte b) rest

theorem readOperands_writeInt (z : Int) : readOperands readInt (writeInt z) = some [z] :=
  readOperands_of_isPlain (isPlain_writeInt z) (readInt_writeInt z)

theorem readOperands_writeInt_append (z : Int) (rest : List Char) :
    readOperands readInt (writeInt z ++ ',' :: ' ' :: rest) = (readOperands readInt rest).map (z :: ·) :=
  readOperands_append_comma (isPlain_writeInt z) (readInt_writeInt z) rest

/-! ### Lines -/

/-- A line in the spec's form is read as such. -/
theorem readLine_of_readSpecForm {text : List Char} {r : Request} (h : readSpecForm text = some r) :
    readLine text = some r := by
  rw [readLine, h]

/-- The text of every instruction is in the spec's form, and its operands are read back one by one. -/
theorem readSpecForm_writeInstr (i : Instr) : readSpecForm (writeInstr i) = some (encode i) := by
  cases i with
  | dbase cw fire r sp => simp [readSpecForm, writeInstr, afterWord, readOperands_writeByte, encode]
  | dazim raw => simp [readSpecForm, writeInstr, afterWord, readOperands_writeByte, encode]
  | dcmd raw cw fire r sp =>
    simp [readSpecForm, writeInstr, afterWord, readOperands_writeByte, readOperands_writeByte_append, encode]
  | mapr v a b c d =>
    simp [readSpecForm, writeInstr, afterWord, readOperands_writeInt, readOperands_writeInt_append, mapRequest, encode]

/-- Settles O40: the text of an instruction is a line in the spec's form. -/
theorem writtenInstructionReadsBack : Obligations.WrittenInstructionReadsBack := by
  unfold Obligations.WrittenInstructionReadsBack
  exact fun i => readLine_of_readSpecForm (readSpecForm_writeInstr i)

end Sys2Proof.Machine
end

section
/-! The decode operations on their fields, in arithmetic form, bit by bit and backwards (40_decode_base.md,
41_decode_azimuth.md, 42_decode_command.md). -/

namespace Sys2Proof

/-- A byte of format B as a number (40_decode_base.md R42). -/
theorem baseByte_toNat (cw fire : Bool) (r : BitVec 2) (sp : BitVec 4) :
    (baseByte cw fire r sp).toNat = 128 * cw.toNat + 64 * fire.toNat + 16 * r.toNat + sp.toNat := by
  revert cw fire r sp; decide

/-- A bit of a byte as a digit of the number. -/
theorem bitSet_eq_decide (b : Byte) (i : Nat) : bitSet b i = decide (b.toNat / 2 ^ i % 2 = 1) := by
  rw [bitSet_eq_getLsbD, ← BitVec.testBit_toNat, Nat.testBit_eq_decide_div_mod_eq]

/-- Flipping bit `k` flips that bit and no other. -/
theorem getLsbD_xor_shiftLeft_one (b : Byte) {k : Nat} (hk : k < 8) (i : Nat) :
    (b ^^^ (1#8 <<< k)).getLsbD i = if k = i then !b.getLsbD i else b.getLsbD i := by
  by_cases h : k = i
  · subst h; simp [hk]
  · have hbit : (1#8 <<< k).getLsbD i = false := by
      rw [← BitVec.twoPow_eq, BitVec.getLsbD_twoPow, decide_eq_false h, Bool.and_false]
    simp [hbit, h]

end Sys2Proof

namespace Sys2Proof.Machine

/-! ### DBASE -/

theorem baseSettings_isClockwise (b : Byte) : (baseSettings b).isClockwise = b.getLsbD 7 := bitSet_eq_getLsbD b 7
theorem baseSettings_isFiring (b : Byte) : (baseSettings b).isFiring = b.getLsbD 6 := bitSet_eq_getLsbD b 6
theorem baseSettings_speed (b : Byte) : (baseSettings b).speed.val = b.toNat % 16 := lowNibble_toNat b

/-- The four bits of the speed are the byte's bits 3:0. -/
theorem baseSettings_speed_testBit (b : Byte) (j : Nat) :
    (baseSettings b).speed.val.testBit j = (decide (j < 4) && b.getLsbD j) := by
  rw [baseSettings_speed, ← BitVec.testBit_toNat]
  exact Nat.testBit_mod_two_pow b.toNat 4 j

/-- Flipping bit `k` flips that bit of the speed, and nothing of the speed from bit 4 on. -/
theorem baseSettings_speed_xor (b : Byte) {k : Nat} (hk : k < 8) :
    (baseSettings (b ^^^ (1#8 <<< k))).speed.val =
      if k < 4 then (baseSettings b).speed.val ^^^ (1 <<< k) else (baseSettings b).speed.val := by
  apply Nat.eq_of_testBit_eq
  intro j
  have hflip : (baseSettings (b ^^^ (1#8 <<< k))).speed.val.testBit j =
      (decide (j < 4) && if k = j then !b.getLsbD j else b.getLsbD j) := by
    rw [baseSettings_speed_testBit, getLsbD_xor_shiftLeft_one b hk]
  rw [hflip, apply_ite (Nat.testBit · j), Nat.testBit_xor, Nat.one_shiftLeft, Nat.testBit_two_pow,
    baseSettings_speed_testBit]
  by_cases hj : k = j
  · subst hj; by_cases h4 : k < 4 <;> simp [h4]
  · simp [hj]

/-- The settings of a byte put together from fields. -/
theorem baseSettings_baseByte (cw fire : Bool) (r : BitVec 2) (sp : BitVec 4) :
    baseSettings (baseByte cw fire r sp) = baseSettingsOf cw fire sp := by
  obtain ⟨hcw, hfire, -, hsp⟩ := fields_baseByte cw fire r sp
  rw [baseSettings, hcw, hfire, hsp]

/-- The bytes with given settings differ in the reserved bits alone. -/
theorem eq_baseSettings_iff (b : Byte) (x : BaseSettings) :
    x = baseSettings b ↔
      ∃ r < 4, b.toNat = 128 * x.isClockwise.toNat + 64 * x.isFiring.toNat + 16 * r + x.speed.val := by
  constructor
  · rintro rfl
    refine ⟨(reservedBits b).toNat, (reservedBits b).isLt, ?_⟩
    calc b.toNat = (baseByte (bitSet b 7) (bitSet b 6) (reservedBits b) (lowNibble b)).toNat := by rw [baseByte_fields]
      _ = _ := baseByte_toNat _ _ _ _
  · rintro ⟨r, hr, hb⟩
    obtain ⟨cw, sp, fire⟩ := x
    have hbyte : b = baseByte cw fire (BitVec.ofNat 2 r) (BitVec.ofNat 4 sp.val) := by
      apply BitVec.eq_of_toNat_eq
      rw [baseByte_toNat, BitVec.toNat_ofNat, BitVec.toNat_ofNat, Nat.mod_eq_of_lt hr, Nat.mod_eq_of_lt sp.isLt]
      exact hb
    rw [hbyte, baseSettings_baseByte, baseSettingsOf, BaseSettings.mk.injEq]
    exact ⟨rfl, Fin.ext (Nat.mod_eq_of_lt sp.isLt).symm, rfl⟩

theorem delivers_decodeBase_iff (p : Params) (b : Byte) (x : BaseSettings) :
    Delivers p (.decodeBase [b]) (.base x) ↔ x = baseSettings b := by
  rw [(delivers_decodeBase p b).iff_eq, Delivery.base.injEq]

/-- Settles O1: the fields are handed over as they are. -/
theorem dbaseExecDeliversItsFields : Obligations.DbaseExecDeliversItsFields := by
  unfold Obligations.DbaseExecDeliversItsFields
  exact fun cw fire r sp s => exec_of_deliveryOf (i := .dbase cw fire r sp) rfl rfl

/-- Settles O5: the flags are the byte's digits at 2^7 and 2^6, and the speed is its remainder modulo 16. -/
theorem dbaseArithmeticForms : Obligations.DbaseArithmeticForms := by
  unfold Obligations.DbaseArithmeticForms
  intro p b
  have hb : b.toNat < 256 := b.isLt
  have hclockwise : bitSet b 7 = decide (128 ≤ b.toNat) := by
    rw [bitSet_eq_decide, decide_eq_decide]; omega
  have hfiring : bitSet b 6 = decide (64 ≤ b.toNat % 128) := by
    rw [bitSet_eq_decide, decide_eq_decide]; omega
  exact ⟨baseSettings b, delivers_decodeBase p b, lowNibble_toNat_eq_toNat_and b, baseSettings_isClockwise b,
    baseSettings_isFiring b, Nat.le_of_lt_succ (baseSettings b).speed.isLt, hclockwise, hfiring, baseSettings_speed b⟩

/-- Settles O7: the reserved bits are what the settings do not fix. -/
theorem dbaseHasFourPreimages : Obligations.DbaseHasFourPreimages := by
  unfold Obligations.DbaseHasFourPreimages
  intro p b x
  rw [delivers_decodeBase_iff, eq_baseSettings_iff]

/-- Settles O8: the settings are bits of the byte, and flipping one bit flips what is read there. -/
theorem dbaseEachResultBitIsOneInputBit : Obligations.DbaseEachResultBitIsOneInputBit := by
  unfold Obligations.DbaseEachResultBitIsOneInputBit
  intro p b k hk
  refine ⟨baseSettings b, baseSettings (b ^^^ (1#8 <<< k)), delivers_decodeBase p b, delivers_decodeBase p _,
    ⟨baseSettings_isClockwise b, baseSettings_isFiring b, fun j hj => ?_⟩, ?_, ?_, ?_⟩
  · simp [baseSettings_speed_testBit, hj]
  · simp only [baseSettings_isClockwise, getLsbD_xor_shiftLeft_one b hk]
  · simp only [baseSettings_isFiring, getLsbD_xor_shiftLeft_one b hk]
  · exact baseSettings_speed_xor b hk

/-! ### DAZIM -/

theorem azimuthOf_eq (b : Byte) : azimuthOf b = (b.toNat : Int) - 90 := rfl

theorem delivers_decodeAzimuth_iff (p : Params) (b : Byte) (z : Int) :
    Delivers p (.decodeAzimuth [b]) (.azimuth z) ↔ z = azimuthOf b := by
  rw [(delivers_decodeAzimuth p b).iff_eq, Delivery.azimuth.injEq]

/-- The azimuth is one to one on bytes. -/
theorem azimuthOf_injective : Function.Injective azimuthOf := fun b b' h => by
  rw [azimuthOf_eq, azimuthOf_eq] at h
  exact BitVec.eq_of_toNat_eq (by omega)

/-- Settles O2: the azimuth of a byte is by definition 90 below it. -/
theorem dazimExecDeliversRawMinusNinety : Obligations.DazimExecDeliversRawMinusNinety := by
  unfold Obligations.DazimExecDeliversRawMinusNinety
  exact fun raw s => exec_of_deliveryOf (i := .dazim raw) rfl rfl

/-- Settles O10: with the delivered azimuth known to be `b − 90`, the laws are linear arithmetic. -/
theorem dazimArithmeticLaw : Obligations.DazimArithmeticLaw := by
  unfold Obligations.DazimArithmeticLaw
  simp only [delivers_decodeAzimuth_iff]
  refine ⟨fun p b => ⟨azimuthOf b, rfl, rfl, ?_, ?_, ?_⟩, ?_, fun p z hlo hhi => ?_⟩
  · rw [azimuthOf_eq]; omega
  · rw [azimuthOf_eq]; omega
  · rw [azimuthOf_eq]; omega
  · rintro p b b' z z' rfl rfl hb
    rw [azimuthOf_eq, azimuthOf_eq]; omega
  · have hb : (BitVec.ofNat 8 (z + 90).toNat).toNat = (z + 90).toNat := by
      rw [BitVec.toNat_ofNat, Nat.mod_eq_of_lt (by omega)]
    have hz : z = azimuthOf (BitVec.ofNat 8 (z + 90).toNat) := by rw [azimuthOf_eq, hb]; omega
    exact ⟨_, hz, by rw [hb]; omega, fun b' hb' => azimuthOf_injective (hb'.symm.trans hz)⟩

/-! ### DCMD -/

theorem delivers_decodeCommand_iff (p : Params) (b0 b1 : Byte) (x : TurretSettings) :
    Delivers p (.decodeCommand [b0, b1]) (.settings x) ↔ x = combine (azimuthOf b0) (baseSettings b1) := by
  rw [(delivers_decodeCommand p b0 b1).iff_eq, Delivery.settings.injEq]

/-- A combination is given by its azimuth and its base settings. -/
theorem eq_combine_iff (x : TurretSettings) (z : Int) (y : BaseSettings) :
    x = combine z y ↔ x.azimuth = z ∧ ⟨x.isClockwise, x.speed, x.isFiring⟩ = y := by
  obtain ⟨cw, sp, fire, az⟩ := x
  obtain ⟨cw', sp', fire'⟩ := y
  simp only [combine, TurretSettings.mk.injEq, BaseSettings.mk.injEq]
  tauto

/-- Settles O3: the azimuth of `raw` is by definition 90 below it, and the other fields are handed over as they are. -/
theorem dcmdExecDeliversBothHalves : Obligations.DcmdExecDeliversBothHalves := by
  unfold Obligations.DcmdExecDeliversBothHalves
  exact fun raw cw fire r sp s => exec_of_deliveryOf (i := .dcmd raw cw fire r sp) rfl rfl

/-- Settles O13: a frame delivers the combination of its two halves, and each half has the preimages of its own decode. -/
theorem dcmdIsTheTwoDecodesCombined : Obligations.DcmdIsTheTwoDecodesCombined := by
  unfold Obligations.DcmdIsTheTwoDecodesCombined
  simp only [delivers_decodeCommand_iff, delivers_decodeAzimuth_iff, delivers_decodeBase_iff]
  refine ⟨?_, ?_, fun p b0 b1 x => ?_⟩
  · rintro p b0 b1 z x rfl rfl
    rfl
  · rintro p b0 b0' b1 b1' x y z rfl rfl rfl
    exact ⟨rfl, rfl, rfl, rfl⟩
  · have hazimuth : x.azimuth = azimuthOf b0 ↔ (b0.toNat : Int) = x.azimuth + 90 := by rw [azimuthOf_eq]; omega
    rw [eq_combine_iff, hazimuth, eq_baseSettings_iff]

/-! ### Words -/

/-- Settles O37: the decoder is run on the six words. -/
theorem wordsOfTheSpecDecode : Obligations.WordsOfTheSpecDecode := by
  unfold Obligations.WordsOfTheSpecDecode
  decide

/-- Settles O39: the string is byte0 put above byte1, and each half is cut out again. -/
theorem frameStringNotation : Obligations.FrameStringNotation := by
  unfold Obligations.FrameStringNotation
  intro b0 b1
  have hlow : ∀ k : Nat, k < 8 → (frameString b0 b1).getLsbD k = b1.getLsbD k := fun k hk => by
    rw [frameString, BitVec.getLsbD_append, if_pos hk]
  have hhigh : ∀ k : Nat, k < 8 → (frameString b0 b1).getLsbD (k + 8) = b0.getLsbD k := fun k _ => by
    rw [frameString, BitVec.getLsbD_append, if_neg (by omega), Nat.add_sub_cancel]
  have hbyte0 : (frameString b0 b1).extractLsb' 8 8 = b0 := BitVec.eq_of_getLsbD_eq fun k hk => by
    rw [BitVec.getLsbD_extractLsb', Nat.add_comm, hhigh k hk, decide_eq_true hk, Bool.true_and]
  have hbyte1 : (frameString b0 b1).extractLsb' 0 8 = b1 := BitVec.eq_of_getLsbD_eq fun k hk => by
    rw [BitVec.getLsbD_extractLsb', Nat.zero_add, hlow k hk, decide_eq_true hk, Bool.true_and]
  exact ⟨by rw [frameOfString, hbyte0, hbyte1], hlow, hhigh⟩

end Sys2Proof.Machine
end

section
/-! MAPR's quotient as a function of the value: its ends, its direction, its range and its rounding (43_range_mapper.md,
Guarantees). -/

namespace Sys2Proof

/-- Truncated division by `b` runs with the numerator, in the direction of the sign of `b`. -/
theorem tdiv_le_tdiv_of_mul_le_mul {m n b : Int} (hb : b ≠ 0) (h : m * b ≤ n * b) : m.tdiv b ≤ n.tdiv b := by
  rcases lt_or_gt_of_ne hb with hneg | hpos
  · have hnm : n ≤ m := (mul_le_mul_right_of_neg hneg).1 h
    rw [← Int.neg_tdiv_neg m, ← Int.neg_tdiv_neg n]
    exact Int.tdiv_le_tdiv (neg_pos.2 hneg) (neg_le_neg hnm)
  · exact Int.tdiv_le_tdiv hpos (le_of_mul_le_mul_right h hpos)

/-- Floor and truncation agree on quotients that are not negative. -/
theorem fdiv_eq_tdiv_of_mul_nonneg {n b : Int} (hb : b ≠ 0) (h : 0 ≤ n * b) : n.fdiv b = n.tdiv b := by
  rcases lt_or_gt_of_ne hb with hneg | hpos
  · have hn : n ≤ 0 := nonpos_of_mul_nonneg_left h hneg
    rw [← Int.neg_fdiv_neg, ← Int.neg_tdiv_neg]
    exact Int.fdiv_eq_tdiv_of_nonneg (neg_nonneg.2 hn) (neg_pos.2 hneg).le
  · exact Int.fdiv_eq_tdiv_of_nonneg (nonneg_of_mul_nonneg_left h hpos) hpos.le

/-- Floor and truncation agree on exact quotients. -/
theorem fdiv_eq_tdiv_of_dvd {n b : Int} (h : b ∣ n) : n.fdiv b = n.tdiv b := by
  rw [Int.fdiv_eq_ediv_of_dvd h, Int.tdiv_eq_ediv_of_dvd h]

end Sys2Proof

namespace Sys2Proof.Machine

/-- What MAPR makes of an accepted value, `srcMin ≠ srcMax`: the product form of 43_range_mapper.md R59, truncated (R64). -/
def scaled (a b c d v : Int) : Int := c + ((v - a) * (d - c)).tdiv (b - a)

theorem scaled_srcMin (a b c d : Int) : scaled a b c d a = c := by
  simp [scaled]

theorem scaled_srcMax {a b : Int} (hab : a ≠ b) (c d : Int) : scaled a b c d b = d := by
  rw [scaled, Int.mul_tdiv_cancel_left _ (sub_ne_zero.2 hab.symm)]
  omega

theorem scaled_of_dstMin_eq_dstMax (a b c v : Int) : scaled a b c c v = c := by
  simp [scaled]

/-- The numerators of two values, times the source span, differ by the values' distance times both spans. -/
theorem numerator_mul_le {a b c d v v' : Int} (h : 0 ≤ (v' - v) * ((d - c) * (b - a))) :
    (v - a) * (d - c) * (b - a) ≤ (v' - a) * (d - c) * (b - a) := by
  have hdiff : (v' - a) * (d - c) * (b - a) - (v - a) * (d - c) * (b - a) = (v' - v) * ((d - c) * (b - a)) := by ring
  omega

theorem scaled_monotone {a b c d : Int} (hab : a ≠ b) (h : 0 ≤ (d - c) * (b - a)) : Monotone (scaled a b c d) :=
  fun _ _ hv => Int.add_le_add_left
    (tdiv_le_tdiv_of_mul_le_mul (sub_ne_zero.2 hab.symm) (numerator_mul_le (mul_nonneg (sub_nonneg.2 hv) h))) c

theorem scaled_antitone {a b c d : Int} (hab : a ≠ b) (h : (d - c) * (b - a) ≤ 0) : Antitone (scaled a b c d) :=
  fun _ _ hv => Int.add_le_add_left
    (tdiv_le_tdiv_of_mul_le_mul (sub_ne_zero.2 hab.symm)
      (numerator_mul_le (mul_nonneg_of_nonpos_of_nonpos (sub_nonpos.2 hv) h))) c

/-- An accepted value lands between the destination bounds, since the bounds themselves are mapped to each other and the
mapping runs in one direction. -/
theorem scaled_mem_bounds {a b c d v : Int} (hab : a ≠ b) (hv : min a b ≤ v ∧ v ≤ max a b) :
    min c d ≤ scaled a b c d v ∧ scaled a b c d v ≤ max c d := by
  obtain ⟨hlo, hhi⟩ := hv
  rcases le_total 0 ((d - c) * (b - a)) with hdir | hdir
  · have hmono := scaled_monotone hab hdir
    have hmin := hmono hlo
    have hmax := hmono hhi
    rw [hmono.map_min, scaled_srcMin, scaled_srcMax hab] at hmin
    rw [hmono.map_max, scaled_srcMin, scaled_srcMax hab] at hmax
    exact ⟨hmin, hmax⟩
  · have hanti := scaled_antitone hab hdir
    have hmin := hanti hhi
    have hmax := hanti hlo
    rw [hanti.map_max, scaled_srcMin, scaled_srcMax hab] at hmin
    rw [hanti.map_min, scaled_srcMin, scaled_srcMax hab] at hmax
    exact ⟨hmin, hmax⟩

/-- The quotient is exact precisely when the division is. -/
theorem scaled_exact_iff (a b c d v : Int) :
    (scaled a b c d v - c) * (b - a) = (v - a) * (d - c) ↔ (b - a) ∣ (v - a) * (d - c) := by
  rw [scaled, add_sub_cancel_left]
  exact ⟨fun h => h ▸ Int.dvd_mul_left _ _, Int.tdiv_mul_cancel⟩

/-- Toward a smaller `dstMax` the magnitude of the quotient is rounded down and taken off `dstMin`
(43_range_mapper.md R64). -/
theorem scaled_of_dstMax_le {a b c d v : Int} (hab : a ≠ b) (hv : min a b ≤ v ∧ v ≤ max a b) (hdc : d ≤ c) :
    scaled a b c d v = c - (((v - a) * (d - c)).natAbs / (b - a).natAbs : Nat) := by
  obtain ⟨-, hle⟩ := scaled_mem_bounds (c := c) (d := d) hab hv
  have hmag : (((v - a) * (d - c)).tdiv (b - a)).natAbs = ((v - a) * (d - c)).natAbs / (b - a).natAbs :=
    Int.natAbs_tdiv _ _
  rw [← hmag]
  rw [max_eq_left hdc] at hle
  unfold scaled at hle ⊢
  omega

/-- Toward a `dstMax` that is not smaller the quotient is not negative. -/
theorem numerator_mul_nonneg {a b c d v : Int} (hv : min a b ≤ v ∧ v ≤ max a b) (hcd : c ≤ d) :
    0 ≤ (v - a) * (d - c) * (b - a) := by
  have hsame : 0 ≤ (v - a) * (b - a) := by
    rcases le_total a b with hab | hab
    · exact mul_nonneg (by omega) (by omega)
    · exact mul_nonneg_of_nonpos_of_nonpos (by omega) (by omega)
  rw [mul_right_comm]
  exact mul_nonneg hsame (sub_nonneg.2 hcd)

end Sys2Proof.Machine
end

section
/-! MAPR case by case, as `exec` runs it and as it is delivered (43_range_mapper.md, 60_exceptions.md section 1). -/

namespace Sys2Proof.Machine

/-! ### The contract under any numerics -/

/-- Settles O29: the contract looks at the numerics only after the validation. -/
theorem validationIsTheSameForAllNumerics : Obligations.ValidationIsTheSameForAllNumerics := by
  unfold Obligations.ValidationIsTheSameForAllNumerics
  intro num rnd v a b c d
  rw [← outOfRange_iff, mapOutcomeWith]
  cases h : outOfRange v a b with
  | true => simp
  | false => cases mapQuotient num rnd v a b c d <;> simp

/-- Two choices of numerics that take the same quotient on accepted operands come to the same. -/
theorem mapOutcomeWith_congr {num num' : MapNumerics} {rnd rnd' : MapRound} {v a b c d : Int}
    (h : min a b ≤ v ∧ v ≤ max a b → mapQuotient num rnd v a b c d = mapQuotient num' rnd' v a b c d) :
    mapOutcomeWith num rnd v a b c d = mapOutcomeWith num' rnd' v a b c d := by
  unfold mapOutcomeWith
  cases hv : outOfRange v a b with
  | true => rfl
  | false => rw [h ((outOfRange_false_iff v a b).1 hv)]

/-- The floor can differ from the truncation only toward a smaller `dstMax`, and there only on inexact quotients. -/
theorem floor_eq_trunc {v a b c d : Int} (h : c ≤ d ∨ (b - a) ∣ (v - a) * (d - c)) :
    mapOutcomeWith .exact .floor v a b c d = mapOutcomeWith .exact .trunc v a b c d := by
  refine mapOutcomeWith_congr fun hv => ?_
  by_cases hab : a = b
  · simp [mapQuotient, hab]
  · have hq : ((v - a) * (d - c)).fdiv (b - a) = ((v - a) * (d - c)).tdiv (b - a) := by
      rcases h with hcd | hdvd
      · exact fdiv_eq_tdiv_of_mul_nonneg (sub_ne_zero.2 (Ne.symm hab)) (numerator_mul_nonneg hv hcd)
      · exact fdiv_eq_tdiv_of_dvd hdvd
    simp [mapQuotient, hab, roundDiv, hq]

/-! ### Running MAPR -/

theorem exec_mapr_of_outOfRange {s : State} (hm : s.params.hasMapper = true) {v a b : Int}
    (hv : v < min a b ∨ max a b < v) (c d : Int) :
    exec (.mapr v a b c d) s = .next (s.deliver (.mapped .outOfRangeError)) := by
  have ho : mapOutcome v a b c d = .raise := (mapOutcome_raise_iff ..).2 ((outOfRange_iff ..).2 hv)
  rw [exec_mapr_of_hasMapper hm, ho]; rfl

theorem exec_mapr_of_mem_bounds {s : State} (hm : s.params.hasMapper = true) {v a b : Int} (hab : a ≠ b)
    (hv : min a b ≤ v ∧ v ≤ max a b) (c d : Int) :
    exec (.mapr v a b c d) s = .next (s.deliver (.mapped (.ok (scaled a b c d v)))) := by
  have ho : mapOutcome v a b c d = .value (scaled a b c d v) :=
    (mapOutcome_value_iff ..).2 ⟨(outOfRange_false_iff ..).2 hv, hab, rfl⟩
  rw [exec_mapr_of_hasMapper hm, ho]; rfl

theorem exec_mapr_degenerate {s : State} (hm : s.params.hasMapper = true) (v c d : Int) :
    exec (.mapr v v v c d) s = s.deliverUnspecified :=
  exec_of_degenerate (i := .mapr v v v c d) hm ((degenerate_mapr_iff ..).2 ⟨rfl, rfl⟩)

theorem deliverUnspecified_of_anyValue {s : State} (h : s.params.degenerateSrc = .anyValue) :
    s.deliverUnspecified = .next s.deliverFreeMapResult := by
  rw [State.deliverUnspecified, h]

theorem deliverUnspecified_of_refuse {s : State} (h : s.params.degenerateSrc = .refuse) :
    s.deliverUnspecified = .refused .degenerateSource := by
  rw [State.deliverUnspecified, h]

/-- Settles O16: the error outside the bounds, the truncated quotient inside. -/
theorem maprExecDeliversScaledValueOrError : Obligations.MaprExecDeliversScaledValueOrError := by
  unfold Obligations.MaprExecDeliversScaledValueOrError
  exact fun v a b c d s hm => ⟨fun hv => exec_mapr_of_outOfRange hm hv c d,
    fun hlo hhi hab => exec_mapr_of_mem_bounds hm hab ⟨hlo, hhi⟩ c d⟩

/-- Settles O17: the integer delivered is the free value at the state's draw index. -/
theorem maprDegenerateSourceDeliversSomeValue : Obligations.MaprDegenerateSourceDeliversSomeValue := by
  unfold Obligations.MaprDegenerateSourceDeliversSomeValue
  intro v c d s hm hany
  exact ⟨Config.freeMapResult s.draws, (exec_mapr_degenerate hm v c d).trans (deliverUnspecified_of_anyValue hany)⟩

/-- Settles O20: an accepted request is degenerate, and then free, or has a source of two different bounds. -/
theorem maprRaisesNoOtherError : Obligations.MaprRaisesNoOtherError := by
  unfold Obligations.MaprRaisesNoOtherError
  intro v a b c d s hm hlo hhi hdeg
  by_cases hab : a = b
  · obtain ⟨rfl, rfl⟩ : a = v ∧ b = v := by omega
    exact ⟨Config.freeMapResult s.draws, s.draws + 1,
      (exec_mapr_degenerate hm _ c d).trans (deliverUnspecified_of_anyValue (hdeg rfl rfl)), fun _ hne => absurd rfl hne⟩
  · refine ⟨scaled a b c d v, s.draws, exec_mapr_of_mem_bounds hm hab ⟨hlo, hhi⟩ c d, ?_⟩
    rintro rfl -
    exact scaled_of_dstMin_eq_dstMax a b c v

/-- Settles O52: every other request has a stated result, and the degenerate one goes by `MAP_DEGENERATE_SRC`. -/
theorem maprDegenerateSourceRefused : Obligations.MaprDegenerateSourceRefused := by
  unfold Obligations.MaprDegenerateSourceRefused
  intro v a b c d s hm
  by_cases hdeg : v = a ∧ a = b
  · obtain ⟨rfl, rfl⟩ := hdeg
    rw [exec_mapr_degenerate hm]
    cases hsrc : s.params.degenerateSrc with
    | anyValue => simp [deliverUnspecified_of_anyValue hsrc]
    | refuse => simp [deliverUnspecified_of_refuse hsrc]
  · by_cases hv : v < min a b ∨ max a b < v
    · simp [exec_mapr_of_outOfRange hm hv, hdeg]
    · have hin : min a b ≤ v ∧ v ≤ max a b := by omega
      have hab : a ≠ b := by omega
      simp [exec_mapr_of_mem_bounds hm hab hin, hab]

/-- Settles O28: the one operation that a block may lack. -/
theorem maprAbsentIsRefused : Obligations.MaprAbsentIsRefused := by
  unfold Obligations.MaprAbsentIsRefused
  exact fun v a b c d s hm => exec_of_not_wellFormed (i := .mapr v a b c d) hm

/-- Settles O30: the four vectors, computed in both numerics. -/
theorem floatAlternativeDiverges : Obligations.FloatAlternativeDiverges := by
  unfold Obligations.FloatAlternativeDiverges
  decide

/-! ### What is delivered -/

/-- The integers MAPR delivers are those of accepted values under a source of two different bounds. -/
theorem delivers_mapped_ok_iff {p : Params} (hm : p.hasMapper = true) (v a b c d z : Int) :
    Delivers p (.mapRange v a b c d) (.mapped (.ok z)) ↔
      (min a b ≤ v ∧ v ≤ max a b) ∧ a ≠ b ∧ z = scaled a b c d v := by
  constructor
  · intro h
    have ho : mapOutcome v a b c d = .value z := by
      rw [delivers_mapRange_iff hm] at h
      cases ho : mapOutcome v a b c d with
      | raise => simp [ho] at h
      | value y => simp only [ho, MapResult.ok.injEq] at h; rw [h]
      | unspecified => simp [ho] at h
    obtain ⟨hv, hab, hz⟩ := (mapOutcome_value_iff ..).1 ho
    exact ⟨(outOfRange_false_iff ..).1 hv, hab, hz⟩
  · rintro ⟨hv, hab, rfl⟩
    exact delivers_mapped_of_mem_bounds hm hab hv c d

theorem delivers_srcMin {p : Params} (hm : p.hasMapper = true) {a b : Int} (hab : a ≠ b) (c d : Int) :
    Delivers p (.mapRange a a b c d) (.mapped (.ok c)) :=
  (delivers_mapped_ok_iff hm ..).2 ⟨⟨min_le_left a b, le_max_left a b⟩, hab, (scaled_srcMin ..).symm⟩

theorem delivers_srcMax {p : Params} (hm : p.hasMapper = true) {a b : Int} (hab : a ≠ b) (c d : Int) :
    Delivers p (.mapRange b a b c d) (.mapped (.ok d)) :=
  (delivers_mapped_ok_iff hm ..).2 ⟨⟨min_le_right a b, le_max_right a b⟩, hab, (scaled_srcMax hab ..).symm⟩

/-- Settles O21: the result is `scaled`, which has the five properties. -/
theorem maprGuarantees : Obligations.MaprGuarantees := by
  unfold Obligations.MaprGuarantees
  intro p hm a b c d hab
  refine ⟨delivers_srcMin hm hab c d, delivers_srcMax hm hab c d, fun v hlo hhi => ?_, fun v v' z z' hle hz hz' => ?_⟩
  · obtain ⟨hmin, hmax⟩ := scaled_mem_bounds (c := c) (d := d) hab ⟨hlo, hhi⟩
    exact ⟨scaled a b c d v, delivers_mapped_of_mem_bounds hm hab ⟨hlo, hhi⟩ c d, hmin, hmax, scaled_exact_iff ..⟩
  · obtain ⟨-, -, rfl⟩ := (delivers_mapped_ok_iff hm ..).1 hz
    obtain ⟨-, -, rfl⟩ := (delivers_mapped_ok_iff hm ..).1 hz'
    refine ⟨fun hdir => scaled_monotone hab hdir.le hle, fun hdir => scaled_antitone hab hdir.le hle, ?_⟩
    rintro rfl
    rw [scaled_of_dstMin_eq_dstMax, scaled_of_dstMin_eq_dstMax]

/-- Settles O22: nothing in the contract depends on the order of the source bounds but which of them is `srcMin`. -/
theorem maprDescendingSourceRunsTheOtherWay : Obligations.MaprDescendingSourceRunsTheOtherWay := by
  unfold Obligations.MaprDescendingSourceRunsTheOtherWay
  intro p hm
  refine ⟨fun v a b c d hba => ?_, (delivers_mapped_ok_iff hm ..).2 (by decide), (delivers_mapped_ok_iff hm ..).2 (by decide)⟩
  refine ⟨?_, delivers_srcMin hm hba.ne' c d, delivers_srcMax hm hba.ne' c d, fun z hz => ?_⟩
  · rw [delivers_outOfRangeError_iff hm, min_eq_right hba.le, max_eq_left hba.le]
  · obtain ⟨hv, hab, rfl⟩ := (delivers_mapped_ok_iff hm ..).1 hz
    obtain ⟨hmin, hmax⟩ := scaled_mem_bounds (c := c) (d := d) hab hv
    exact ⟨fun hcd => (min_eq_left hcd).ge.trans hmin, fun hdc => hmax.trans (max_eq_left hdc).le⟩

/-- Settles O23: a destination of one point leaves nothing to add to it. -/
theorem maprDegenerateDestinationIsConstant : Obligations.MaprDegenerateDestinationIsConstant := by
  unfold Obligations.MaprDegenerateDestinationIsConstant
  exact fun p hm v a b c hab hlo hhi =>
    (delivers_mapped_ok_iff hm ..).2 ⟨⟨hlo, hhi⟩, hab, (scaled_of_dstMin_eq_dstMax ..).symm⟩

/-- Settles O24: toward a smaller `dstMax` the quotient is not positive, so truncation rounds its magnitude down. -/
theorem maprDescendingDestinationTruncates : Obligations.MaprDescendingDestinationTruncates := by
  unfold Obligations.MaprDescendingDestinationTruncates
  refine ⟨fun p hm v a b c d hab hlo hhi hdc => ?_, fun v a b c d => floor_eq_trunc⟩
  exact (delivers_mapped_ok_iff hm ..).2 ⟨⟨hlo, hhi⟩, hab, (scaled_of_dstMax_le hab ⟨hlo, hhi⟩ hdc.le).symm⟩

end Sys2Proof.Machine
end

section
/-! The decoder's output ports, and what the host's events at the ports leave unchanged (10_state.md section 3). -/

namespace Sys2Proof.Machine

/-! ### Events at the ports -/

theorem step_driveByte0 {s : State} {x : Option Byte} {rest : List HostEvent} (h : s.pending = .driveByte0 x :: rest) :
    step s = .next { s with pending := rest, ports := { s.ports with byte0 := x } } := by
  rw [step_of_cons h]; rfl

theorem step_driveByte1 {s : State} {x : Option Byte} {rest : List HostEvent} (h : s.pending = .driveByte1 x :: rest) :
    step s = .next { s with pending := rest, ports := { s.ports with byte1 := x } } := by
  rw [step_of_cons h]; rfl

theorem step_driveMapper {s : State} {q : MapPort} {x : Option Int} {rest : List HostEvent}
    (h : s.pending = .driveMapper q x :: rest) : step s = State.driveMapper { s with pending := rest } q x := by
  rw [step_of_cons h]; rfl

theorem step_sample {s : State} {rest : List HostEvent} (h : s.pending = .sample :: rest) :
    step s = .next { s with
      pending := rest, delivered := s.delivered ++ [.sample s.outputs], draws := s.draws + 1 } := by
  rw [step_of_cons h]; rfl

theorem driveMapper_of_fits {s : State} {x : Option Int} (hm : s.params.hasMapper = true) (q : MapPort)
    (hx : ∀ z, x = some z → fits s.params.mapW z = true) :
    s.driveMapper q x = .next { s with ports := s.ports.setMapper q x } := by
  obtain ⟨-, -, h⟩ | ⟨-, z, hz, hfit, -⟩ | ⟨hno, -⟩ := driveMapper_cases s q x
  · exact h
  · rw [hx z hz] at hfit; cases hfit
  · rw [hm] at hno; cases hno

theorem driveMapper_of_not_fits {s : State} {z : Int} (hm : s.params.hasMapper = true) (q : MapPort)
    (hz : fits s.params.mapW z = false) : s.driveMapper q (some z) = .refused (.notPresentable q z) := by
  simp [State.driveMapper, hm, hz]

theorem driveMapper_of_absent {s : State} (hm : s.params.hasMapper = false) (q : MapPort) (x : Option Int) :
    s.driveMapper q x = .refused .mapperAbsent := by
  simp [State.driveMapper, hm]

/-- Settles O36: each event writes one port, or reads them all, or is refused. -/
theorem portEventsTouchOnePort : Obligations.PortEventsTouchOnePort := by
  unfold Obligations.PortEventsTouchOnePort
  refine fun s rest => ⟨fun x => step_driveByte0, fun x => step_driveByte1, fun q x h hm hx => ?_, fun q z h hm hz => ?_,
    fun q x h hm => ?_, step_sample⟩
  · exact ⟨s.ports.setMapper q x, (step_driveMapper h).trans (driveMapper_of_fits (s := { s with pending := rest }) hm q hx),
      Ports.mapper_setMapper_self .., Ports.setMapper_byte0 .., Ports.setMapper_byte1 ..,
      fun q' hq => Ports.mapper_setMapper_of_ne _ x hq⟩
  · exact (step_driveMapper h).trans (driveMapper_of_not_fits (s := { s with pending := rest }) hm q hz)
  · exact (step_driveMapper h).trans (driveMapper_of_absent (s := { s with pending := rest }) hm q x)

/-! ### The outputs of `byte0` -/

/-- With `byte0` driven the azimuth output is U-AZ of its byte, whatever else the ports carry. -/
theorem outputs_azimuth {s : State} {b : Byte} (h : s.ports.byte0 = some b) : s.outputs.azimuth = azimuthPort b := by
  simp [State.outputs, Ports.outputs, Ports.azimuth, h]

/-- The azimuth output looks at `byte0` and, while that is undriven, at the draw index (log 25). -/
theorem outputs_azimuth_congr {s t : State} (h : t.ports.byte0 = s.ports.byte0) (hk : t.draws = s.draws) :
    t.outputs.azimuth = s.outputs.azimuth := by
  simp [State.outputs, Ports.outputs, Ports.azimuth, h, hk]

/-- The pattern of the azimuth port (41_decode_azimuth.md R48). -/
theorem azimuthPort_toNat (b : Byte) : (azimuthPort b).toNat = (b.toNat + 422) % 512 := by
  have hb : b.toNat < 512 := b.isLt.trans (by decide)
  have hoffset : (BitVec.ofInt 9 azOffset).toNat = 90 := rfl
  rw [azimuthPort, BitVec.toNat_sub, BitVec.toNat_setWidth, hoffset, Nat.mod_eq_of_lt hb, Nat.add_comm]

/-- Read as a signed number the port carries the azimuth: nothing is lost at 9 bits. -/
theorem azimuthPort_toInt (b : Byte) : (azimuthPort b).toInt = azimuthOf b := by
  have hb : b.toNat < 256 := b.isLt
  rw [BitVec.toInt_eq_toNat_cond, azimuthPort_toNat, azimuthOf_eq]
  split <;> omega

theorem azimuthPort_eq_ofInt (b : Byte) : azimuthPort b = BitVec.ofInt 9 (azimuthOf b) := by
  rw [← azimuthPort_toInt, BitVec.ofInt_toInt]

/-- The sign bit of the port. -/
theorem azimuthPort_signBit (b : Byte) : (azimuthPort b).getLsbD 8 = true ↔ b.toNat < 90 := by
  have hmsb : (azimuthPort b).getLsbD 8 = (azimuthPort b).msb := rfl
  rw [hmsb, BitVec.msb_eq_toInt, decide_eq_true_iff, azimuthPort_toInt, azimuthOf_eq]
  omega

/-- Settles O32: the azimuth output is U-AZ's pattern of the driven byte. -/
theorem azimuthPortPattern : Obligations.AzimuthPortPattern := by
  unfold Obligations.AzimuthPortPattern
  intro s b hb
  rw [outputs_azimuth hb]
  refine ⟨azimuthPort_toNat b, azimuthPort_toInt b, azimuthPort_signBit b, ?_, ?_, ?_, ?_, ?_⟩ <;>
    · rintro rfl; rfl

/-! ### The outputs of `byte1` -/

/-- With `byte1` driven the three outputs are its bits, whatever else the ports carry. -/
theorem outputs_byte1 {s : State} {b : Byte} (h : s.ports.byte1 = some b) :
    s.outputs.isClockwise = b.getLsbD 7 ∧ s.outputs.isFiring = b.getLsbD 6 ∧ s.outputs.speed = b.extractLsb' 0 4 := by
  simp [State.outputs, Ports.outputs, Ports.isClockwise, Ports.isFiring, Ports.speed, h]

/-- The three outputs look at `byte1` and, while that is undriven, at the draw index (log 25). -/
theorem outputs_byte1_congr {s t : State} (h : t.ports.byte1 = s.ports.byte1) (hk : t.draws = s.draws) :
    t.outputs.isClockwise = s.outputs.isClockwise ∧ t.outputs.isFiring = s.outputs.isFiring ∧
      t.outputs.speed = s.outputs.speed := by
  simp [State.outputs, Ports.outputs, Ports.isClockwise, Ports.isFiring, Ports.speed, h, hk]

/-- The speed port carries the speed of the byte's settings. -/
theorem baseSettings_speed_eq_port (b : Byte) : (baseSettings b).speed.val = (b.extractLsb' 0 4).toNat :=
  congrArg BitVec.toNat (lowNibble_eq_extract b)

/-- Settles O53: the three outputs and DBASE read the same bits of `byte1`. -/
theorem baseSchemeReadsByte1Alone : Obligations.BaseSchemeReadsByte1Alone := by
  unfold Obligations.BaseSchemeReadsByte1Alone
  intro s b hb
  obtain ⟨hcw, hfire, hspeed⟩ := outputs_byte1 hb
  refine ⟨hcw, hfire, hspeed, ⟨baseSettings b, delivers_decodeBase _ b, ?_, ?_, ?_⟩,
    fun rest h => ⟨s.outputs, step_sample h, hcw, hfire, hspeed⟩⟩
  · rw [hcw, baseSettings_isClockwise]
  · rw [hfire, baseSettings_isFiring]
  · rw [hspeed, baseSettings_speed_eq_port]

/-- Settles O33: each output reads its byte as the matching decode does. -/
theorem sampledDecoderPortsAgreeWithDcmd : Obligations.SampledDecoderPortsAgreeWithDcmd := by
  unfold Obligations.SampledDecoderPortsAgreeWithDcmd
  intro s rest b0 b1 hb0 hb1 h
  have haz : s.outputs.azimuth = azimuthPort b0 := outputs_azimuth hb0
  obtain ⟨hcw, hfire, hspeed⟩ := outputs_byte1 hb1
  refine ⟨s.outputs, combine (azimuthOf b0) (baseSettings b1), step_sample h, haz.trans (azimuthPort_eq_ofInt b0), hcw,
    hfire, hspeed, delivers_decodeCommand _ b0 b1, ?_, ?_, ?_, ?_⟩
  · rw [haz, azimuthPort_toInt]; rfl
  · rw [hcw, ← baseSettings_isClockwise]; rfl
  · rw [hfire, ← baseSettings_isFiring]; rfl
  · rw [hspeed, ← baseSettings_speed_eq_port]; rfl

/-- Settles O34: an output looks at its own byte port alone, and a drive event at the other one leaves that as it was. -/
theorem decoderPortHalvesAreIndependent : Obligations.DecoderPortHalvesAreIndependent := by
  unfold Obligations.DecoderPortHalvesAreIndependent
  refine ⟨fun s t b hs ht => by rw [outputs_azimuth hs, outputs_azimuth ht], fun s t b hs ht => ?_, fun s rest x h => ?_,
    fun s rest x h => ?_⟩
  · obtain ⟨hcw, hfire, hspeed⟩ := outputs_byte1 hs
    obtain ⟨hcw', hfire', hspeed'⟩ := outputs_byte1 ht
    exact ⟨hcw.trans hcw'.symm, hfire.trans hfire'.symm, hspeed.trans hspeed'.symm⟩
  · refine ⟨_, step_driveByte0 h, ?_⟩
    obtain ⟨hcw, hfire, hspeed⟩ :=
      outputs_byte1_congr (s := s) (t := { s with pending := rest, ports := { s.ports with byte0 := x } }) rfl rfl
    exact ⟨hcw, hfire, hspeed, rfl, rfl⟩
  · exact ⟨_, step_driveByte1 h,
      outputs_azimuth_congr (s := s) (t := { s with pending := rest, ports := { s.ports with byte1 := x } }) rfl rfl, rfl, rfl⟩

end Sys2Proof.Machine
end

section
/-! The datapath of U-MAP computes MAPR at every width (43_range_mapper.md R68), and a sample of the mapper's ports reads
it. -/

namespace Sys2Proof

/-- A number that fits a port is the reading of its own pattern. -/
theorem toInt_ofInt_of_fits {w : Nat} {z : Int} (h : fits w z = true) : (BitVec.ofInt w z).toInt = z := by
  simpa only [fits, beq_iff_eq] using h

/-- The range of a reading, the width 0 included. -/
theorem two_mul_toInt_bounds {w : Nat} (x : BitVec w) : -2 ^ w ≤ 2 * x.toInt ∧ 2 * x.toInt < 2 ^ w :=
  ⟨BitVec.le_two_mul_toInt, BitVec.two_mul_toInt_lt⟩

/-- A number between two readings of a port fits it. -/
theorem toInt_ofInt_of_between {w : Nat} {x y : BitVec w} {z : Int} (hlo : min x.toInt y.toInt ≤ z)
    (hhi : z ≤ max x.toInt y.toInt) : (BitVec.ofInt w z).toInt = z := by
  have hx := two_mul_toInt_bounds x
  have hy := two_mul_toInt_bounds y
  rw [BitVec.toInt_ofInt]
  apply Int.bmod_eq_of_le_mul_two <;> push_cast <;> omega

/-- The reading of a pattern cut to its low `w` bits. -/
theorem toInt_setWidth_of_le {v w : Nat} (h : w ≤ v) (x : BitVec v) : (x.setWidth w).toInt = x.toInt.bmod (2 ^ w) := by
  rw [← BitVec.signExtend_eq_setWidth_of_le x h, BitVec.toInt_signExtend_eq_toInt_bmod_of_le x h]

end Sys2Proof

namespace Sys2Proof.Machine

/-! ### The comparators -/

theorem sMin_toInt {w : Nat} (x y : BitVec w) : (sMin x y).toInt = min x.toInt y.toInt := by
  rw [sMin, min_def, apply_ite BitVec.toInt]
  simp only [BitVec.sle_iff_toInt_le]

theorem sMax_toInt {w : Nat} (x y : BitVec w) : (sMax x y).toInt = max x.toInt y.toInt := by
  rw [sMax, max_def, apply_ite BitVec.toInt]
  simp only [BitVec.sle_iff_toInt_le]

/-- The two comparators decide MAPR's validation. -/
theorem outOfRangePort_eq {w : Nat} (v a b : BitVec w) : outOfRangePort v a b = outOfRange v.toInt a.toInt b.toInt := by
  rw [outOfRangePort, outOfRange, BitVec.slt_eq_decide, BitVec.slt_eq_decide, sMin_toInt, sMax_toInt]

/-! ### The widths -/

/-- A difference of two readings is smaller than `2^w` in magnitude. -/
theorem abs_toInt_sub_lt {w : Nat} (x y : BitVec w) : |x.toInt - y.toInt| < 2 ^ w := by
  have hx := two_mul_toInt_bounds x
  have hy := two_mul_toInt_bounds y
  rw [abs_lt]
  omega

/-- One more bit holds a difference. -/
theorem wideSub_toInt {w : Nat} (x y : BitVec w) : (wideSub x y).toInt = x.toInt - y.toInt := by
  obtain ⟨hlo, hhi⟩ := abs_lt.1 (abs_toInt_sub_lt x y)
  rw [wideSub, BitVec.toInt_sub, BitVec.toInt_signExtend_of_le (Nat.le_succ w),
    BitVec.toInt_signExtend_of_le (Nat.le_succ w)]
  apply Int.bmod_eq_of_le_mul_two <;> push_cast <;> rw [pow_succ] <;> omega

/-- A difference widened to the width of the product. -/
theorem wideSub_signExtend_toInt {w : Nat} (x y : BitVec w) :
    ((wideSub x y).signExtend (2 * w + 2)).toInt = x.toInt - y.toInt := by
  rw [BitVec.toInt_signExtend_of_le (by omega), wideSub_toInt]

/-- `2·w + 2` bits hold the product of two differences. -/
theorem product_toInt {w : Nat} (v a d c : BitVec w) :
    ((wideSub v a).signExtend (2 * w + 2) * (wideSub d c).signExtend (2 * w + 2)).toInt =
      (v.toInt - a.toInt) * (d.toInt - c.toInt) := by
  have hprod : |(v.toInt - a.toInt) * (d.toInt - c.toInt)| < 2 ^ w * 2 ^ w := by
    rw [abs_mul]
    exact mul_lt_mul'' (abs_toInt_sub_lt v a) (abs_toInt_sub_lt d c) (abs_nonneg _) (abs_nonneg _)
  obtain ⟨hlo, hhi⟩ := abs_lt.1 hprod
  have hwidth : ((2 ^ (2 * w + 2) : Nat) : Int) = 4 * (2 ^ w * 2 ^ w) := by
    push_cast; rw [pow_add, two_mul, pow_add]; ring
  rw [BitVec.toInt_mul, wideSub_signExtend_toInt, wideSub_signExtend_toInt]
  apply Int.bmod_eq_of_le_mul_two <;> rw [hwidth] <;> omega

/-- The datapath leaves the pattern of the scaled value, whatever its operands: cutting a sum to `w` bits forgets only
multiples of `2^w`. -/
theorem mappedPort_eq {w : Nat} (v a b c d : BitVec w) :
    mappedPort v a b c d = BitVec.ofInt w (scaled a.toInt b.toInt c.toInt d.toInt v.toInt) := by
  have hwidths : 2 ^ w ∣ 2 ^ (2 * w + 2) := Nat.pow_dvd_pow 2 (by omega)
  apply BitVec.eq_of_toInt_eq
  rw [mappedPort, toInt_setWidth_of_le (by omega), BitVec.toInt_add, BitVec.toInt_sdiv, product_toInt,
    wideSub_signExtend_toInt, BitVec.toInt_signExtend_of_le (by omega), Int.add_bmod_bmod, Int.bmod_bmod_of_dvd hwidths,
    BitVec.toInt_ofInt, scaled]

/-! ### The outputs of U-MAP -/

theorem mapperOut_outOfRange {w : Nat} (v a b c d : BitVec w) :
    (mapperOut v a b c d).outOfRange = outOfRange v.toInt a.toInt b.toInt :=
  outOfRangePort_eq v a b

/-- The source span is zero exactly when its bounds are equal. -/
theorem wideSub_eq_zero_iff {w : Nat} (x y : BitVec w) : (wideSub x y == 0) = true ↔ y.toInt = x.toInt := by
  have hzero : (0 : BitVec (w + 1)).toInt = 0 := BitVec.toInt_zero
  rw [beq_iff_eq, ← BitVec.toInt_inj, wideSub_toInt, hzero]
  omega

/-- `mapped` carries the scaled value where the operands are accepted and the source is not degenerate. -/
theorem mapperOut_mapped {w : Nat} (v a b c d : BitVec w) :
    (mapperOut v a b c d).mapped =
      if outOfRange v.toInt a.toInt b.toInt = true ∨ a.toInt = b.toInt then none
      else some (BitVec.ofInt w (scaled a.toInt b.toInt c.toInt d.toInt v.toInt)) := by
  simp only [mapperOut, outOfRangePort_eq, mappedPort_eq, Bool.or_eq_true, wideSub_eq_zero_iff]

/-- Where MAPR has a value, `mapped` carries its pattern, from which the value is read back: it lies between the
destination bounds. -/
theorem mapperOut_mapped_of_value {w : Nat} {v a b c d : BitVec w} {z : Int}
    (h : mapOutcome v.toInt a.toInt b.toInt c.toInt d.toInt = .value z) :
    (mapperOut v a b c d).mapped = some (BitVec.ofInt w z) ∧ (BitVec.ofInt w z).toInt = z := by
  obtain ⟨hv, hab, hz⟩ := (mapOutcome_value_iff ..).1 h
  obtain rfl : z = scaled a.toInt b.toInt c.toInt d.toInt v.toInt := hz
  obtain ⟨hlo, hhi⟩ := scaled_mem_bounds (c := c.toInt) (d := d.toInt) hab ((outOfRange_false_iff ..).1 hv)
  exact ⟨by simp [mapperOut_mapped, hv, hab], toInt_ofInt_of_between hlo hhi⟩

/-- Settles O25: the differences and the product fit their widths, and the value lies between the destination bounds. -/
theorem mapperPortsComputeMapr : Obligations.MapperPortsComputeMapr := by
  unfold Obligations.MapperPortsComputeMapr
  intro w v a b c d
  refine ⟨wideSub_toInt v a, product_toInt v a d c, mapperOut_outOfRange .., fun z => mapperOut_mapped_of_value, ?_⟩
  simp only [mapperOut_mapped, ite_eq_left_iff, reduceCtorEq, imp_false, not_not]

/-! ### Sampling the mapper's ports -/

theorem outputs_mapper {s : State} (hm : s.params.hasMapper = true) :
    s.outputs.mapper =
      some ⟨(s.ports.mapped s.params.mapW s.draws).toInt, s.ports.outOfRange s.params.mapW s.draws⟩ := by
  simp [State.outputs, Ports.outputs, hm]

/-- With the three ports it depends on driven, `out_of_range` is MAPR's validation. -/
theorem Ports.outOfRange_of_driven {x : Ports} {w : Nat} {v a b : Int} (fv : fits w v = true) (fa : fits w a = true)
    (fb : fits w b = true) (hv : x.value = some v) (ha : x.srcMin = some a) (hb : x.srcMax = some b) (k : Nat) :
    x.outOfRange w k = Machine.outOfRange v a b := by
  simp only [Ports.outOfRange, hv, ha, hb, outOfRangePort_eq, toInt_ofInt_of_fits, fv, fa, fb]

/-- With all five ports driven and MAPR's value stated, `mapped` reads it. -/
theorem Ports.mapped_of_driven {x : Ports} {w : Nat} {v a b c d z : Int} (fv : fits w v = true) (fa : fits w a = true)
    (fb : fits w b = true) (fc : fits w c = true) (fd : fits w d = true) (hv : x.value = some v) (ha : x.srcMin = some a)
    (hb : x.srcMax = some b) (hc : x.dstMin = some c) (hd : x.dstMax = some d)
    (ho : mapOutcome v a b c d = .value z) (k : Nat) : (x.mapped w k).toInt = z := by
  rw [← toInt_ofInt_of_fits fv, ← toInt_ofInt_of_fits fa, ← toInt_ofInt_of_fits fb, ← toInt_ofInt_of_fits fc,
    ← toInt_ofInt_of_fits fd] at ho
  obtain ⟨hmapped, hz⟩ := mapperOut_mapped_of_value ho
  simp only [Ports.mapped, hv, ha, hb, hc, hd, hmapped, Option.getD_some, hz]

/-- Settles O35: the output looks at the three source-side ports alone. -/
theorem outOfRangePortIgnoresDestinationPorts : Obligations.OutOfRangePortIgnoresDestinationPorts := by
  unfold Obligations.OutOfRangePortIgnoresDestinationPorts
  intro s v a b hm fv fa fb hv ha hb
  refine ⟨_, outputs_mapper hm, ?_⟩
  rw [Ports.outOfRange_of_driven fv fa fb hv ha hb, outOfRange_iff]

/-- Settles O26: the sampled outputs are U-MAP's, which are MAPR's error and value. -/
theorem sampledMapperOutputsAgreeWithMapr : Obligations.SampledMapperOutputsAgreeWithMapr := by
  unfold Obligations.SampledMapperOutputsAgreeWithMapr
  intro s rest v a b c d hm fv fa fb fc fd hv ha hb hc hd h
  refine ⟨s.outputs, _, step_sample h, outputs_mapper hm, ?_, fun z hz => ?_⟩
  · rw [Ports.outOfRange_of_driven fv fa fb hv ha hb, outOfRange_iff, delivers_outOfRangeError_iff hm]
  · obtain ⟨hin, hab, hscaled⟩ := (delivers_mapped_ok_iff hm ..).1 hz
    have ho : mapOutcome v a b c d = .value z :=
      (mapOutcome_value_iff ..).2 ⟨(outOfRange_false_iff ..).2 hin, hab, hscaled⟩
    exact Ports.mapped_of_driven fv fa fb fc fd hv ha hb hc hd ho _

end Sys2Proof.Machine
end

section
/-! The alternative numerics `float2(F)` at scale 1 (43_range_mapper.md R65, D12): every number on the way is an integer that
the format holds exactly, so no rounding happens. -/

namespace Sys2Proof.Machine

/-- The integers up to the format's precision are held exactly: 1 is a normal number, and so is `2^(precision - 1)`. -/
structure HoldsIntegers (F : FloatFormat) : Prop where
  precision_pos : 1 ≤ F.precision
  minExp_le : F.minExp ≤ 0
  le_maxExp : (F.precision : Int) ≤ F.maxExp + 1

/-- The value of the format that is the integer `x`, with all its significand bits used. -/
def exactFloat (F : FloatFormat) (x : Int) : FloatVal :=
  if x = 0 then .fin 0 0
  else .fin (x * 2 ^ (F.precision - 1 - x.natAbs.log2)) (-((F.precision - 1 - x.natAbs.log2 : Nat) : Int))

/-! ### Powers and logarithms -/

theorem pow2_natCast (k : Nat) : pow2 k = 2 ^ k := by rw [pow2, Int.toNat_natCast]

theorem pow2_of_nonpos {k : Int} (h : k ≤ 0) : pow2 k = 1 := by rw [pow2, Int.toNat_of_nonpos h, pow_zero]

/-- The logarithm of a product lies between the sum of the logarithms and one more. -/
theorem log2_mul_bounds {k n : Nat} (hk : k ≠ 0) (hn : n ≠ 0) :
    k.log2 + n.log2 ≤ (k * n).log2 ∧ (k * n).log2 < k.log2 + n.log2 + 2 := by
  have hkn : k * n ≠ 0 := Nat.mul_ne_zero hk hn
  rw [Nat.le_log2 hkn, Nat.log2_lt hkn]
  constructor
  · rw [pow_add]
    exact Nat.mul_le_mul (Nat.log2_self_le hk) (Nat.log2_self_le hn)
  · calc k * n < 2 ^ (k.log2 + 1) * 2 ^ (n.log2 + 1) := Nat.mul_lt_mul'' Nat.lt_log2_self Nat.lt_log2_self
      _ = 2 ^ (k.log2 + n.log2 + 2) := by rw [← pow_add]; congr 1; omega

/-- A common factor does not move the logarithm of a ratio. -/
theorem floorLog2_mul {k n : Nat} (hk : k ≠ 0) (hn : n ≠ 0) : floorLog2 (k * n) k = n.log2 := by
  obtain ⟨hlo, hhi⟩ := log2_mul_bounds hk hn
  obtain ⟨j, hj⟩ : ∃ j : Nat, ((k * n).log2 : Int) - (k.log2 : Int) = j := ⟨(k * n).log2 - k.log2, by omega⟩
  have hcond : pow2 j * k ≤ pow2 (-j) * (k * n) ↔ j ≤ n.log2 := by
    rw [pow2_natCast, pow2_of_nonpos (by omega), Nat.one_mul, Nat.mul_comm k n,
      Nat.mul_le_mul_right_iff (Nat.pos_of_ne_zero hk), Nat.le_log2 hn]
  simp only [floorLog2, hj, hcond]
  split <;> omega

/-- An exact ratio is not rounded. -/
theorem roundHalfEven_mul {k : Nat} (hk : 0 < k) (n : Nat) : roundHalfEven (k * n) k = n := by
  simp [roundHalfEven, hk]

theorem roundDiv_mul_self (rnd : MapRound) (x : Int) {k : Int} (hk : k ≠ 0) : roundDiv rnd (x * k) k = x := by
  cases rnd with
  | trunc => exact Int.mul_tdiv_cancel x hk
  | floor => exact Int.mul_fdiv_cancel x hk

/-! ### No operation rounds -/

/-- The sign and the magnitude of an integer. -/
theorem ite_neg_natAbs (x : Int) : (if decide (x < 0) then -(x.natAbs : Int) else x.natAbs) = x := by
  by_cases h : x < 0
  · simp only [h, decide_true, if_true]; omega
  · simp only [h, decide_false, Bool.false_eq_true, if_false]; omega

/-- Division of a number by `2^j`, written with a one as its significand's leading bit. -/
theorem floatDiv_two_pow (F : FloatFormat) {m : Int} {i j l : Nat} (h : j = i + l) :
    floatDiv F (.fin (m * 2 ^ i) (-(i : Int))) (.fin (2 ^ j) (-(j : Int))) =
      roundRatio F (decide (m < 0)) (2 ^ j * m.natAbs) (2 ^ j) := by
  have hexp : -(i : Int) - -(j : Int) = l := by omega
  have hexp' : pow2 (-(j : Int) - -(i : Int)) = 1 := pow2_of_nonpos (by omega)
  have hsig : pow2 l * (m * 2 ^ i).natAbs = 2 ^ j * m.natAbs := by
    rw [pow2_natCast, Int.natAbs_mul, Int.natAbs_pow, h, pow_add]
    show 2 ^ l * (m.natAbs * 2 ^ i) = _
    ring
  have hsig' : 1 * ((2 : Int) ^ j).natAbs = 2 ^ j := by rw [Int.natAbs_pow, Nat.one_mul]; rfl
  have hneg : (m * 2 ^ i < 0) = (m < 0) := by
    have hpos : (0 : Int) < 2 ^ i := by positivity
    simp [mul_neg_iff, hpos, hpos.not_gt]
  have hnonneg : ¬ (2 : Int) ^ j < 0 := not_lt.2 (by positivity)
  rw [floatDiv, if_neg (by positivity), hexp, hexp', hsig, hsig']
  simp only [hneg, hnonneg, decide_false, Bool.bne_false]

section
variable {F : FloatFormat} (hF : HoldsIntegers F)
include hF

/-- The ratio `± k·n / k` of an integer within the precision is that integer. -/
theorem roundRatio_mul (negative : Bool) {k n : Nat} (hk : k ≠ 0) (hn : n < 2 ^ F.precision) :
    roundRatio F negative (k * n) k = exactFloat F (if negative then -(n : Int) else n) := by
  obtain ⟨hp, hmin, hmax⟩ := hF
  by_cases h0 : n = 0
  · subst h0; simp [roundRatio, exactFloat]
  have hlog : n.log2 < F.precision := (Nat.log2_lt h0).2 hn
  obtain ⟨j, hj⟩ : ∃ j : Nat, F.precision - 1 - n.log2 = j := ⟨_, rfl⟩
  have hexp : max (floorLog2 (k * n) k) F.minExp - ((F.precision : Int) - 1) = -(j : Int) := by
    rw [floorLog2_mul hk h0]; omega
  have hsig : roundHalfEven (pow2 j * (k * n)) (pow2 (-j) * k) = 2 ^ j * n := by
    rw [pow2_natCast, pow2_of_nonpos (by omega), Nat.one_mul, Nat.mul_left_comm,
      roundHalfEven_mul (Nat.pos_of_ne_zero hk)]
  have hsig0 : 2 ^ j * n ≠ 0 := Nat.mul_ne_zero (by positivity) h0
  have hfinite : ¬ F.maxExp < ((2 ^ j * n).log2 : Int) + -(j : Int) := by
    have hsiglog : (2 ^ j * n).log2 < F.precision := by
      rw [Nat.log2_lt hsig0]
      calc 2 ^ j * n < 2 ^ j * 2 ^ (n.log2 + 1) := Nat.mul_lt_mul_of_pos_left Nat.lt_log2_self (by positivity)
        _ = 2 ^ F.precision := by rw [← pow_add]; congr 1; omega
    omega
  have habs : (if negative then -(n : Int) else n).natAbs = n := by cases negative <;> simp
  simp only [roundRatio, Nat.mul_ne_zero hk h0, if_false, hexp, neg_neg, hsig, hfinite, and_false, exactFloat, habs, hj]
  cases negative <;> simp [h0, mul_comm]

theorem floatOfInt_eq {x : Int} (hx : x.natAbs < 2 ^ F.precision) : floatOfInt F x = exactFloat F x := by
  have hratio := roundRatio_mul hF (decide (x < 0)) one_ne_zero hx
  rwa [Nat.one_mul, ite_neg_natAbs] at hratio

/-- The scale of equal spans is exactly 1. -/
theorem floatDiv_self {x : Int} (hx : x ≠ 0) : floatDiv F (exactFloat F x) (exactFloat F x) = exactFloat F 1 := by
  have hone : 1 < 2 ^ F.precision := Nat.one_lt_two_pow (Nat.ne_of_gt hF.precision_pos)
  obtain ⟨j, hj⟩ : ∃ j : Nat, F.precision - 1 - x.natAbs.log2 = j := ⟨_, rfl⟩
  have hsig : x * 2 ^ j ≠ 0 := mul_ne_zero hx (by positivity)
  have hratio := roundRatio_mul hF false (Int.natAbs_ne_zero.2 hsig) hone
  simpa [exactFloat, hx, hj, floatDiv, pow2] using hratio

/-- Division by exactly 1 changes no integer. -/
theorem floatDiv_one {x : Int} (hx : x.natAbs < 2 ^ F.precision) :
    floatDiv F (exactFloat F x) (exactFloat F 1) = exactFloat F x := by
  by_cases h0 : x = 0
  · simp [h0, exactFloat, floatDiv, roundRatio]
  have hp := hF.precision_pos
  have hlog : x.natAbs.log2 < F.precision := (Nat.log2_lt (Int.natAbs_ne_zero.2 h0)).2 hx
  have hone : exactFloat F 1 = .fin (2 ^ (F.precision - 1)) (-((F.precision - 1 : Nat) : Int)) := by
    have hlog1 : Nat.log2 1 = 0 := rfl
    simp [exactFloat, hlog1]
  have hratio := roundRatio_mul hF (decide (x < 0)) (k := 2 ^ (F.precision - 1)) (by positivity) hx
  rw [ite_neg_natAbs] at hratio
  have hx' : exactFloat F x = .fin (x * 2 ^ (F.precision - 1 - x.natAbs.log2)) _ := if_neg h0
  rw [hone, hx', floatDiv_two_pow F (l := x.natAbs.log2) (by omega), hratio, hx']

end

/-- The integer that the format holds is read back under either rounding. -/
theorem toInt?_exactFloat (F : FloatFormat) (rnd : MapRound) (x : Int) : (exactFloat F x).toInt? rnd = some x := by
  by_cases hx : x = 0
  · cases rnd <;> simp [hx, exactFloat, FloatVal.toInt?, roundDiv]
  · obtain ⟨j, hj⟩ : ∃ j : Nat, F.precision - 1 - x.natAbs.log2 = j := ⟨_, rfl⟩
    have hscale : ((pow2 j : Nat) : Int) = 2 ^ j := by rw [pow2_natCast]; push_cast; rfl
    have hone : pow2 (-j) = 1 := pow2_of_nonpos (by omega)
    simp only [exactFloat, hx, if_false, hj, FloatVal.toInt?, neg_neg, hone, hscale, Nat.cast_one, mul_one,
      roundDiv_mul_self rnd x (pow_ne_zero j two_ne_zero)]

/-- At scale 1 neither division rounds: the quotient is the value's distance from `srcMin`. -/
theorem float2Quotient_of_equal_spans {F : FloatFormat} (hF : HoldsIntegers F) (rnd : MapRound) {v a b c d : Int}
    (hab : a ≠ b) (hspan : d - c = b - a) (hfit : (b - a).natAbs < 2 ^ F.precision)
    (hv : (v - a).natAbs ≤ (b - a).natAbs) : float2Quotient F rnd v a b c d = some (v - a) := by
  have hvfit : (v - a).natAbs < 2 ^ F.precision := hv.trans_lt hfit
  rw [float2Quotient, hspan, floatOfInt_eq hF hfit, floatDiv_self hF (sub_ne_zero.2 hab.symm), floatOfInt_eq hF hvfit,
    floatDiv_one hF hvfit, toInt?_exactFloat]

/-- Settles O31: at scale 1 both numerics take `value − srcMin` for the quotient. -/
theorem floatAlternativeAgreesAtScaleOne : Obligations.FloatAlternativeAgreesAtScaleOne := by
  unfold Obligations.FloatAlternativeAgreesAtScaleOne
  intro F rnd v a b c d hp hmin hmax hab hspan hfit
  refine mapOutcomeWith_congr fun hv => ?_
  have hexact : mapQuotient .exact rnd v a b c d = some (v - a) := by
    rw [mapQuotient, if_neg hab, hspan, roundDiv_mul_self rnd _ (sub_ne_zero.2 hab.symm)]
  rw [hexact]
  exact float2Quotient_of_equal_spans ⟨hp, hmin, hmax⟩ rnd hab hspan hfit (by omega)

end Sys2Proof.Machine
end
